-- ==== Sys2Proof/Word.lean ====
section
/-! DEFINITION. The block's data words: a byte is 8 unsigned bits and a nibble is 4 unsigned bits
(00_scope.md rule R10, 30_encoding.md rule R100). Nothing else of the block is a bit vector: positions are
mathematical integers, offsets and lengths are natural numbers. -/

namespace Sys2Proof

/-- A byte: 8 bits, unsigned, bit 0 the least significant (R10). -/
abbrev Byte := BitVec 8

/-- A nibble: "a 4-bit half of a byte", unsigned (R10). -/
abbrev Nibble := BitVec 4

end Sys2Proof
end

