-- ==== Sys2Proof/Config.lean ====
section
/-! DEFINITION. What is fixed for the machine: the named constants of 00_scope.md rule R8, the open parameters of
rule R9, and the free values (the environment's draws, 20_memory.md rules R54 and R55). -/

namespace Sys2Proof.Config

/-! Display geometry (R8). -/

def LINES : Nat := 2
def COLUMNS : Nat := 16
/-- LINES*COLUMNS, "32 addressable cells" (R8). -/
def CELLS : Nat := LINES * COLUMNS
def LINE1_BASE : Nat := 0x00
def LINE2_BASE : Nat := 0x40

/-! Bit positions of a frame (R8, R80). -/

/-- The highest of the frame bits that carry the nibble. -/
def DATA_HI : Nat := 7
/-- The lowest of the frame bits that carry the nibble. -/
def DATA_LO : Nat := 4
def BL_BIT : Nat := 3
def EN_BIT : Nat := 2
/-- The read/write bit; the spec derives its place (R82). -/
def RW_BIT : Nat := 1
def RS_BIT : Nat := 0
/-- `1 << EN_BIT`, the XOR mask of a pulse (R8). -/
def EN_MASK : Byte := 0x04#8

/-- The hardwired backlight bit of every sequenced frame (R25): it is a constant, not a register. -/
def BACKLIGHT : Bool := true

/-! Byte literals (R8, R83, R87). -/

def BUSY_PROBE_HI : Byte := 0xFE#8
def BUSY_PROBE_LO : Byte := 0xFA#8
def CMD_4BIT_HALF : Byte := 0x20#8
def CMD_FUNCTION_SET : Byte := 0x28#8
def CMD_DISPLAY_ON : Byte := 0x0F#8
def CMD_CLEAR : Byte := 0x01#8
def CMD_SET_DDRAM : Byte := 0x80#8

/-- Milliseconds slept between two busy checks (R8, R153). -/
def BACKOFF_MS : Nat := 10
/-- Line buffer capacity in bytes, indices 0..32 (R8, R30, 90_conflicts.md C1). -/
def BUF_CAP : Nat := 33
/-- The `\n` terminator byte (R8, 92_eei_decisions.md D24). -/
def NEWLINE : Byte := 0x0A#8

end Sys2Proof.Config

namespace Sys2Proof

/-- The transport's opaque error value (R9 BUS_ERROR_INFO, D4), handed on unread.
DESIGN CHOICE (log 1): a string of bytes stands for it, so that it can be compared and written on the response port. -/
abbrev BusErrInfo := List Byte

/-- The environment's answer to one transport call (R52 to R55): it succeeds, with the byte a read returns
(a write ignores the byte), or it fails with the transport's error value. -/
inductive Draw where
  | ok (v : Byte)
  | err (e : BusErrInfo)
deriving DecidableEq, Repr, Inhabited

/-- The free answer of the environment to a transport call for which no answer stands in `State.draws`, one for each value
of the counter `State.drawCount` (R54, R55: unconstrained). No proof can see what it is (log 2). -/
opaque Config.freeDraw : Nat → Draw

/-- The OPEN parameter I2C_ADDR (R9, R71, D31): it belongs to the host's transport and no rule of the block reads it. -/
opaque Config.i2cAddr : Nat

end Sys2Proof
end

