-- ==== Sys2Proof/Syntax.lean ====
section
/-! DEFINITION. The items of spec/opcode_table.json, one constructor each. Eleven rows are operations a host can request
(format REQ), one is the internal operation FLUSH, one is the space of op bytes that name nothing, and the others are
bytes that travel on the block's ports: frames and probe bytes written on the transport, bytes read from it, the
assembled status byte, the LCD bytes carried inside frames, and the response word. -/

namespace Sys2Proof

/-- The `format` column of spec/opcode_table.json: on which port, or at which stage inside the block, an item's bytes
stand. The same byte can be an item of several formats (0x01 is the request CLEAR and the LCD byte LCD.CLEAR), so a
decoder is told the format. -/
inductive Format where
  /-- Request word at the host port (30_encoding.md rule R96). -/
  | req
  /-- The internal operation FLUSH, which has no word (R203). -/
  | internal
  /-- Byte written to the expander (R80, R83). -/
  | xbyte
  /-- Byte read from the expander (R84). -/
  | xbyteIn
  /-- Status byte assembled from two reads (R85). -/
  | lcdStatus
  /-- Controller command byte carried in frames with RS = 0 (R87, R88). -/
  | lcdCmd
  /-- Data byte carried in frames with RS = 1 (R89). -/
  | lcdData
  /-- Response word at the host port (R97). -/
  | rsp
deriving DecidableEq, Repr

/-- The three error kinds (60_exceptions.md rules R220 to R223). -/
inductive DriverError where
  /-- A transport call failed; the transport's value is handed on verbatim (R221). -/
  | busError (e : BusErrInfo)
  /-- SET_CURSOR outside 0..31 (R222). -/
  | invalidArgument
  /-- APPEND past the buffer's capacity (R223). -/
  | messageTooLong
deriving DecidableEq, Repr

/-- The answer of an operation (R13, R97): `Ok` with the value byte of rule R97 (ENCODE the frame byte, READ_BUSY 0 or 1,
APPEND the count, every other operation none), or one error. -/
inductive Response where
  | ok (value : Option Byte)
  | error (e : DriverError)
deriving DecidableEq, Repr

/-- One constructor per row of spec/opcode_table.json, in the table's order. -/
inductive Instr where
  /-- INIT (R171). -/
  | init
  /-- CLEAR (R173). -/
  | clear
  /-- SET_CURSOR pos (R174); `pos` is any mathematical integer. -/
  | setCursor (pos : Int)
  /-- PRINT_CHAR byte (R176). -/
  | printChar (b : Byte)
  /-- SEND_COMMAND cmd (R152). -/
  | sendCommand (cmd : Byte)
  /-- SEND_DATA byte (R154). -/
  | sendData (b : Byte)
  /-- SEND_HALF_COMMAND cmd (R151). -/
  | sendHalfCommand (cmd : Byte)
  /-- READ_BUSY (R124). -/
  | readBusy
  /-- PULSE base (R122). -/
  | pulse (base : Byte)
  /-- ENCODE nibble, register_select, enable, backlight (R120). -/
  | encode (nibble : Nibble) (rs en bl : Bool)
  /-- APPEND bytes, offset (R200). -/
  | append (offset : Nat) (bytes : List Byte)
  /-- FLUSH (R203): not requestable. -/
  | flush
  /-- REQ.INVALID: an op byte that names no operation (R98). -/
  | reqInvalid (op : Byte)
  /-- FRAME nnnnle0s (R80): a byte written to the expander with RW = 0. -/
  | frame (nibble : Nibble) (bl en rs : Bool)
  /-- BUSY_PROBE_HI, 0xFE (R83). -/
  | busyProbeHi
  /-- BUSY_PROBE_LO, 0xFA (R83). -/
  | busyProbeLo
  /-- READ_BYTE hhhhxxxx (R84): a byte a BusRead returned. -/
  | readByte (h x : Nibble)
  /-- STATUS baaaaaaa (R85): the assembled status byte. -/
  | status (b : Bool) (a : BitVec 7)
  /-- LCD.FUNCTION_SET_4BIT_HALF, 0x20 (R87). -/
  | lcdFunctionSet4BitHalf
  /-- LCD.FUNCTION_SET_2LINE, 0x28 (R87). -/
  | lcdFunctionSet2Line
  /-- LCD.DISPLAY_ON_CURSOR_BLINK, 0x0F (R87). -/
  | lcdDisplayOnCursorBlink
  /-- LCD.CLEAR, 0x01 (R87). -/
  | lcdClear
  /-- LCD.SET_DDRAM_ADDR 1aaaaaaa (R88). -/
  | lcdSetDdramAddr (a : BitVec 7)
  /-- LCD.DATA dddddddd (R89). -/
  | lcdData (d : Byte)
  /-- RESPONSE 000000ss, then value (R97). -/
  | response (r : Response)
deriving DecidableEq, Repr

/-- The row's format (spec/opcode_table.json, column `format`). -/
def Instr.format : Instr → Format
  | .init | .clear | .setCursor _ | .printChar _ | .sendCommand _ | .sendData _ | .sendHalfCommand _
  | .readBusy | .pulse _ | .encode _ _ _ _ | .append _ _ | .reqInvalid _ => .req
  | .flush => .internal
  | .frame _ _ _ _ | .busyProbeHi | .busyProbeLo => .xbyte
  | .readByte _ _ => .xbyteIn
  | .status _ _ => .lcdStatus
  | .lcdFunctionSet4BitHalf | .lcdFunctionSet2Line | .lcdDisplayOnCursorBlink | .lcdClear
  | .lcdSetDdramAddr _ => .lcdCmd
  | .lcdData _ => .lcdData
  | .response _ => .rsp

end Sys2Proof
end

