-- ==== Sys2Proof/WellFormed.lean ====
section
/-! DEFINITION. Which terms of `Instr` are instructions of the table: the operand ranges that the types do not already
fix (30_encoding.md rules R96 and R98). -/

namespace Sys2Proof

/-- An instruction whose operands the encoding of 30_encoding.md can carry and does not call invalid. -/
def Instr.wellFormed : Instr → Bool
  -- a signed 8-bit operand (R96)
  | .setCursor pos => decide (-128 ≤ pos ∧ pos ≤ 127)
  -- the base byte has its enable bit set (R98, R122)
  | .pulse base => base.getLsbD Config.EN_BIT
  -- unsigned 8-bit offset and length (R96)
  | .append offset bytes => decide (offset < 256 ∧ bytes.length < 256)
  -- op bytes 0x0B..0xFF name no operation (R98)
  | .reqInvalid op => decide (0x0B ≤ op.toNat)
  | .init | .clear | .printChar _ | .sendCommand _ | .sendData _ | .sendHalfCommand _ | .readBusy
  | .encode _ _ _ _ | .flush | .frame _ _ _ _ | .busyProbeHi | .busyProbeLo | .readByte _ _ | .status _ _
  | .lcdFunctionSet4BitHalf | .lcdFunctionSet2Line | .lcdDisplayOnCursorBlink | .lcdClear
  | .lcdSetDdramAddr _ | .lcdData _ | .response _ => true

end Sys2Proof
end

