-- ==== Sys2Proof/Decode.lean ====
section
/-! DEFINITION. The bit layouts of 30_encoding.md, a decoder that is total on any bytes and rejects by name, and the
encoder written from the same tables. -/

namespace Sys2Proof

/-! ## Bit fields -/

/-- `b[DATA_HI:DATA_LO]`: a frame's nibble (R80), and `hi(b) = b[7:4]` (R90). -/
def hiNibble (b : Byte) : Nibble := b.extractLsb' Config.DATA_LO (Config.DATA_HI - Config.DATA_LO + 1)

/-- `lo(b) = b[3:0]` (R90). -/
def loNibble (b : Byte) : Nibble := b.extractLsb' 0 4

/-- `(h << 4) | l` (R90, R103). -/
def joinNibbles (h l : Nibble) : Byte := (h.setWidth 8 <<< Config.DATA_LO) ||| l.setWidth 8

/-- One bit as a byte, to be shifted into place (R80). -/
def bitByte (b : Bool) : Byte := (BitVec.ofBool b).setWidth 8

/-- The frame `(nibble << 4) | (BL << 3) | (EN << 2) | (RW << 1) | RS` (R80). -/
def packFrame (nibble : Nibble) (bl en rw rs : Bool) : Byte :=
  (nibble.setWidth 8 <<< Config.DATA_LO) ||| (bitByte bl <<< Config.BL_BIT) ||| (bitByte en <<< Config.EN_BIT)
    ||| (bitByte rw <<< Config.RW_BIT) ||| (bitByte rs <<< Config.RS_BIT)

/-- ENCODE's operand byte `0lesnnnn` (R96). -/
def packEncodeOperand (nibble : Nibble) (rs en bl : Bool) : Byte :=
  (bitByte bl <<< 6) ||| (bitByte en <<< 5) ||| (bitByte rs <<< 4) ||| nibble.setWidth 8

/-- The Set-DDRAM-Address byte `1aaaaaaa` (R88). -/
def packDdramCommand (a : BitVec 7) : Byte := Config.CMD_SET_DDRAM ||| a.setWidth 8

/-- The status byte `baaaaaaa` (R85). -/
def packStatus (b : Bool) (a : BitVec 7) : Byte := (bitByte b <<< 7) ||| a.setWidth 8

/-! ## The decoder -/

/-- Why bytes are no item of a format. -/
inductive DecodeError where
  /-- No byte stands at the port. -/
  | noByte
  /-- The operand bytes that the op byte asks for are not all there. -/
  | truncated
  /-- ENCODE's operand has bit 7 set (R98). -/
  | encodeBitSevenSet
  /-- PULSE's base has its enable bit clear (R98). -/
  | pulseEnableClear
  /-- A byte with RW = 1 that is neither busy probe: no row of the table (R99). -/
  | frameReadWriteSet
  /-- A controller command byte that the sequencer does not emit: no row of the table (R87). -/
  | lcdCommandUnlisted
  /-- Response status 4..255, never produced (D3). -/
  | responseStatusUnused
  /-- A response with more value bytes than rule R97 gives it. -/
  | responseTooLong
deriving DecidableEq, Repr

/-- A request that has one operand byte (R96). -/
def oneOperand (k : Byte → Except DecodeError Instr) : List Byte → Except DecodeError (Instr × List Byte)
  | [] => .error .truncated
  | p :: rest =>
    match k p with
    | .ok i => .ok (i, rest)
    | .error e => .error e

/-- PULSE's operand: the base byte, bit 2 set (R96, R98). -/
def decodePulseOperand (b : Byte) : Except DecodeError Instr :=
  if b.getLsbD Config.EN_BIT then .ok (.pulse b) else .error .pulseEnableClear

/-- ENCODE's operand `0lesnnnn` (R96, R98). -/
def decodeEncodeOperand (b : Byte) : Except DecodeError Instr :=
  if b.getLsbD 7 then .error .encodeBitSevenSet
  else .ok (.encode (loNibble b) (b.getLsbD 4) (b.getLsbD 5) (b.getLsbD 6))

/-- APPEND's operands: offset, length k, then k bytes (R96). -/
def decodeAppendOperands : List Byte → Except DecodeError (Instr × List Byte)
  | o :: k :: rest =>
    if rest.length < k.toNat then .error .truncated
    else .ok (.append o.toNat (rest.take k.toNat), rest.drop k.toNat)
  | _ => .error .truncated

/-- The request table (R96): the op byte, then the operand bytes. -/
def decodeRequest : List Byte → Except DecodeError (Instr × List Byte)
  | [] => .error .noByte
  | op :: rest =>
    match op.toNat with
    | 0x00 => .ok (.init, rest)
    | 0x01 => .ok (.clear, rest)
    | 0x02 => oneOperand (fun p => .ok (.setCursor p.toInt)) rest
    | 0x03 => oneOperand (fun p => .ok (.printChar p)) rest
    | 0x04 => oneOperand (fun p => .ok (.sendCommand p)) rest
    | 0x05 => oneOperand (fun p => .ok (.sendData p)) rest
    | 0x06 => oneOperand (fun p => .ok (.sendHalfCommand p)) rest
    | 0x07 => .ok (.readBusy, rest)
    | 0x08 => oneOperand decodePulseOperand rest
    | 0x09 => oneOperand decodeEncodeOperand rest
    | 0x0A => decodeAppendOperands rest
    | _ => .ok (.reqInvalid op, rest)

/-- A byte written to the expander: a probe byte (R83) or a frame with RW = 0 (R80). -/
def decodeXByte (b : Byte) : Except DecodeError Instr :=
  if b = Config.BUSY_PROBE_HI then .ok .busyProbeHi
  else if b = Config.BUSY_PROBE_LO then .ok .busyProbeLo
  else if b.getLsbD Config.RW_BIT then .error .frameReadWriteSet
  else .ok (.frame (hiNibble b) (b.getLsbD Config.BL_BIT) (b.getLsbD Config.EN_BIT) (b.getLsbD Config.RS_BIT))

/-- A command byte of R87, or a Set-DDRAM-Address byte of R88 with any of the 128 addresses its field admits; of these the
block itself emits only 0x00..0x0F and 0x40..0x4F (R58, R88; DESIGN CHOICE, log 15). -/
def decodeLcdCommand (b : Byte) : Except DecodeError Instr :=
  if b = Config.CMD_4BIT_HALF then .ok .lcdFunctionSet4BitHalf
  else if b = Config.CMD_FUNCTION_SET then .ok .lcdFunctionSet2Line
  else if b = Config.CMD_DISPLAY_ON then .ok .lcdDisplayOnCursorBlink
  else if b = Config.CMD_CLEAR then .ok .lcdClear
  else if b.getLsbD 7 then .ok (.lcdSetDdramAddr (b.extractLsb' 0 7))
  else .error .lcdCommandUnlisted

/-- A response word (R97): the status byte, then the value or the transport's error value. -/
def decodeResponse : List Byte → Except DecodeError (Instr × List Byte)
  | [] => .error .noByte
  | st :: rest =>
    match st.toNat, rest with
    | 0, [] => .ok (.response (.ok none), [])
    | 0, [v] => .ok (.response (.ok (some v)), [])
    | 0, _ => .error .responseTooLong
    | 1, e => .ok (.response (.error (.busError e)), [])
    | 2, [] => .ok (.response (.error .invalidArgument), [])
    | 2, _ => .error .responseTooLong
    | 3, [] => .ok (.response (.error .messageTooLong), [])
    | 3, _ => .error .responseTooLong
    | _, _ => .error .responseStatusUnused

/-- A format whose items are one byte each. -/
def oneByte (k : Byte → Except DecodeError Instr) : List Byte → Except DecodeError (Instr × List Byte)
  | [] => .error .noByte
  | b :: rest =>
    match k b with
    | .ok i => .ok (i, rest)
    | .error e => .error e

/-- The item at the head of `bytes`, read in format `f`, and the bytes after it. FLUSH has no word: it takes no byte. -/
def decodeAs (f : Format) (bytes : List Byte) : Except DecodeError (Instr × List Byte) :=
  match f with
  | .req => decodeRequest bytes
  | .internal => .ok (.flush, bytes)
  | .xbyte => oneByte decodeXByte bytes
  | .xbyteIn => oneByte (fun b => .ok (.readByte (hiNibble b) (loNibble b))) bytes
  | .lcdStatus => oneByte (fun b => .ok (.status (b.getLsbD 7) (b.extractLsb' 0 7))) bytes
  | .lcdCmd => oneByte decodeLcdCommand bytes
  | .lcdData => oneByte (fun b => .ok (.lcdData b)) bytes
  | .rsp => decodeResponse bytes

/-! ## The encoder -/

/-- The bytes of a response (R97). -/
def encodeResponse : Response → List Byte
  | .ok none => [0x00#8]
  | .ok (some v) => [0x00#8, v]
  | .error (.busError e) => 0x01#8 :: e
  | .error .invalidArgument => [0x02#8]
  | .error .messageTooLong => [0x03#8]

/-- The words of a well-formed instruction, from the tables of 30_encoding.md (R80, R83 to R89, R96, R97). -/
def encode : Instr → List Byte
  | .init => [0x00#8]
  | .clear => [0x01#8]
  | .setCursor pos => [0x02#8, BitVec.ofInt 8 pos]
  | .printChar b => [0x03#8, b]
  | .sendCommand c => [0x04#8, c]
  | .sendData b => [0x05#8, b]
  | .sendHalfCommand c => [0x06#8, c]
  | .readBusy => [0x07#8]
  | .pulse base => [0x08#8, base]
  | .encode n rs en bl => [0x09#8, packEncodeOperand n rs en bl]
  | .append offset bytes => 0x0A#8 :: BitVec.ofNat 8 offset :: BitVec.ofNat 8 bytes.length :: bytes
  | .flush => []
  | .reqInvalid op => [op]
  | .frame n bl en rs => [packFrame n bl en false rs]
  | .busyProbeHi => [Config.BUSY_PROBE_HI]
  | .busyProbeLo => [Config.BUSY_PROBE_LO]
  | .readByte h x => [joinNibbles h x]
  | .status b a => [packStatus b a]
  | .lcdFunctionSet4BitHalf => [Config.CMD_4BIT_HALF]
  | .lcdFunctionSet2Line => [Config.CMD_FUNCTION_SET]
  | .lcdDisplayOnCursorBlink => [Config.CMD_DISPLAY_ON]
  | .lcdClear => [Config.CMD_CLEAR]
  | .lcdSetDdramAddr a => [packDdramCommand a]
  | .lcdData d => [d]
  | .response r => encodeResponse r

/-! ## Words numbered as spec/opcode_table.json numbers them -/

/-- `n` bytes of `w`, the least significant byte first. -/
def bytesOf : Nat → Nat → List Byte
  | 0, _ => []
  | n + 1, w => BitVec.ofNat 8 w :: bytesOf n (w / 256)

/-- The longest request: APPEND of 255 bytes. -/
def longestWord : Nat := 258

/-- How many bytes of a table word are laid out: the row's own, and as many as the longest request with that beginning has
(APPEND says its own length, every other request has at most two bytes). -/
def tableLength (nbits w : Nat) : Nat :=
  max ((nbits + 7) / 8) (if w % 256 = 0x0A then 3 + w / 65536 % 256 else 3)

/-- The bytes of a table word: the row's own bits, first byte least significant, then operand bytes of zeros. -/
def tableBytes (nbits w : Nat) : List Byte := bytesOf (tableLength nbits (w % 2 ^ nbits)) (w % 2 ^ nbits)

/-- In which format a table word is read. Words of the table are not unique (0x01 is CLEAR and LCD.CLEAR, 0x00 is INIT
and a frame): a word whose op byte names an operation is a request, then the probe bytes and the command bytes of rule
R87 are what their rows say, and the rest is a request too, REQ.INVALID (log 3). -/
def tableFormat : List Byte → Format
  | [] => .req
  | b :: _ =>
    if b.toNat ≤ 0x0A then .req
    else if b = Config.BUSY_PROBE_HI ∨ b = Config.BUSY_PROBE_LO then .xbyte
    else
      match decodeLcdCommand b with
      | .ok _ => .lcdCmd
      | .error _ => .req

/-- The instruction the decoder reads from a table word. -/
def decodeTableWord (nbits w : Nat) : Option Instr :=
  match decodeAs (tableFormat (tableBytes nbits w)) (tableBytes nbits w) with
  | .ok (i, _) => some i
  | .error _ => none

/-- The bytes of a table word that the decoder takes, without the padding after them (all of the padding where it takes
none, so that what was refused stays refused). -/
def tableWord (nbits w : Nat) : List Byte :=
  match decodeAs (tableFormat (tableBytes nbits w)) (tableBytes nbits w) with
  | .ok (_, rest) => (tableBytes nbits w).take ((tableBytes nbits w).length - rest.length)
  | .error _ => tableBytes nbits w

end Sys2Proof
end

