-- ==== Sys2Proof/Machine/State.lean ====
section
/-! DEFINITION. The state of 10_state.md (its summary table and rules R20 to R36), with the ports of 60_exceptions.md
rule R238 and the environment's answers (20_memory.md rules R52 to R56), as plain data; the value after reset (R36);
the named reasons for which a step stops. -/

namespace Sys2Proof.Machine

/-- `phase`, the six values of R21 in their order. -/
inductive Phase where
  | uninitialized
  | functionSetPending
  | twoLineModePending
  | displayOnPending
  | cleared
  | ready
deriving DecidableEq, Repr

/-- A trace event (R12, R14): `W(v)`, `W(v)=err`, `R=v`, `R=err`, `S(ms)`. -/
inductive Event where
  | write (v : Byte)
  | writeErr (v : Byte)
  | read (v : Byte)
  | readErr
  | sleep (ms : Nat)
deriving DecidableEq, Repr

/-- One statement of the operations' pseudocode (R12): what the *position* of R27 is made of. -/
inductive Action where
  /-- `BusWrite(v)?` -/
  | write (v : Byte)
  /-- `r1 <- BusRead()?; H <- r1[7:4]` (R124) -/
  | readHi
  /-- `r2 <- BusRead()?; L <- r2[7:4]` (R124) -/
  | readLo
  /-- `status <- (H << 4) | L; busy <- status[7]` (R124) -/
  | status
  /-- the test at the foot of WaitNotBusy's loop (R153) -/
  | testBusy
  /-- `phase <- p` (R171) -/
  | setPhase (p : Phase)
  /-- `cursor <- pos` (R173, R174) -/
  | setCursor (pos : Nat)
  /-- `lb_off <- 0` at the end of a flush (R203) -/
  | emptyBuffer
  /-- `return v` of a requested operation: the response is presented (R12, R97) -/
  | answer (v : Option Byte)
  /-- `return status[7]` of a requested READ_BUSY (R124) -/
  | answerBusy
  /-- `return` of an operation that no request stands behind: nothing is presented -/
  | ret
deriving DecidableEq, Repr

/-- Memory as cells in rising order of address. An address that is not listed has no value. -/
abbrev Memory := List Host.Cell

/-- Why the machine stops with a fault. None can be raised from a state that meets the machine's invariant. -/
inductive Fault where
  /-- LbRead or LbWrite outside 0..32, which no rule issues (R57): raised by APPEND and FLUSH. Safe: the machine stops. -/
  | lbOutOfRange (i : Nat)
  /-- LbRead of a byte that nothing has stored since reset; its contents are unspecified and no rule reads it (R30, R36):
  raised by APPEND and FLUSH. Safe: the machine stops. -/
  | lbUnwritten (i : Nat)
deriving DecidableEq, Repr

/-- Why the machine gives a request no meaning. Each is safe: nothing can be proved of what would follow. -/
inductive Refusal where
  /-- An instruction without a meaning yet, raised by its arm of exec. Safe. -/
  | notModelled (mnemonic : String)
  /-- A request to a block that is not idle, a breach of the host's duty (R239 (a), U12): an operation is in flight, or its
  response has not been taken (R238 (a)). Raised by every instruction. Safe. -/
  | requestInFlight
  /-- An op byte 0x0B..0xFF (R98): raised by REQ.INVALID. Safe. -/
  | noSuchOperation (op : Byte)
  /-- PULSE with a base whose enable bit is clear (R98, R123 (c), D10): raised by PULSE. Safe. -/
  | pulseEnableClear (base : Byte)
  /-- APPEND with `offset != lb_off` (R201, D15): raised by APPEND. Safe. -/
  | offsetMismatch (offset lbOff : Nat)
  /-- FLUSH while the valid part holds no NEWLINE: R203 runs it only when R202's test succeeds: raised by FLUSH. Safe. -/
  | flushWithoutNewline
  /-- Bytes that are no item (R98), raised by the step's decoding. Safe. -/
  | undecodable (e : DecodeError)
deriving DecidableEq, Repr

/-- Everything the spec gives the block, its ports and the environment's part in it. -/
structure State where
  /-- Display State Machine phase (R21). -/
  phase : Phase
  /-- Cursor Position, 0..31 or none (R22). -/
  cursor : Option Nat
  /-- Line buffer storage, indices 0..32 (R30). -/
  lbBuf : Memory
  /-- Number of valid bytes in `lbBuf`, 0..33 (R30). -/
  lbOff : Nat
  /-- Working register H of READ_BUSY (R20, R124); none outside an operation. -/
  H : Option Nibble
  /-- Working register L of READ_BUSY (R20, R124); none outside an operation. -/
  L : Option Nibble
  /-- The transient busy flag (R28); none outside an operation. -/
  busy : Option Bool
  /-- The position (R27): the rest of the pseudocode of the operation in flight; empty when none is. -/
  position : List Action
  /-- The expander's output latch (R33); none is *unknown*. -/
  port : Option Byte
  /-- The events since reset, oldest first (R35). -/
  trace : List Event
  /-- Response port (R238 (a)): the response presented to the host and not yet taken, if any. -/
  response : Option Response
  /-- Response port (R238 (a)): the host takes a response that stands there. Driven by the host, a level (log 8). -/
  rspReady : Bool
  /-- Request port (R238 (a)): the bytes of the request stream that the host has presented and the block has not taken (R75). -/
  requests : List Byte
  /-- MODEL's own: the format in which the next bytes of `requests` are read; REQ always, but where `withFetchWord` places
  an item of another format (log 3). -/
  lane : Format
  /-- Transport port (R238 (b)): the environment's next answers, in order (R54, R55). -/
  draws : List Draw
  /-- MODEL's own: how many free answers (`Config.freeDraw`) have been taken (log 2). -/
  drawCount : Nat
  /-- The asynchronous reset input (R260): reset is asserted. -/
  resetLine : Bool
deriving DecidableEq, Repr

/-- The block right after reset (R36): every register as the rule gives it, nothing presented at the ports, and a host that
takes responses (logs 4 and 8). -/
def State.reset : State where
  phase := .uninitialized
  cursor := none
  lbBuf := []
  lbOff := 0
  H := none
  L := none
  busy := none
  position := []
  port := none
  trace := []
  response := none
  rspReady := true
  requests := []
  lane := .req
  draws := []
  drawCount := 0
  resetLine := false

end Sys2Proof.Machine
end

