-- ==== Sys2Proof/Machine/Operands.lean ====
section
/-! DEFINITION. Operand assembly: the address translation of 20_memory.md rule R59, the frames of 30_encoding.md rules
R90 and R91, and the cursor command byte of rule R92. -/

namespace Sys2Proof.Machine

/-- `ddram_addr(pos)` (R59): line 1 at 0x00, line 2 at 0x40. -/
def ddramAddr (pos : Nat) : Nat :=
  if Config.COLUMNS ≤ pos then pos - Config.COLUMNS + Config.LINE2_BASE else Config.LINE1_BASE + pos

/-- `CMD_SET_DDRAM | ddram_addr(pos)` (R92). -/
def cursorCommand (pos : Nat) : Byte := Config.CMD_SET_DDRAM ||| BitVec.ofNat 8 (ddramAddr pos)

/-- The range of SET_CURSOR (R174): inside 0..31. -/
def posInRange (pos : Int) : Bool := decide (0 ≤ pos ∧ pos ≤ (Config.LINES * Config.COLUMNS : Nat) - 1)

/-- ENCODE's result (R120): read/write is "fixed 0". -/
def encodeFrame (nibble : Nibble) (rs en : Bool) (bl : Bool := Config.BACKLIGHT) : Byte :=
  packFrame nibble bl en false rs

/-- `base XOR enable_bit` (R102, R122). -/
def enableLow (base : Byte) : Byte := base ^^^ Config.EN_MASK

/-- The first, enable-high frame of a nibble as SendNibble passes it to PULSE (R150). -/
def nibbleFrame (n : Nibble) (rs : Bool) : Byte := encodeFrame n rs true

/-- The value byte of an answer that counts bytes (R97, R200). -/
def countByte (n : Nat) : Byte := BitVec.ofNat 8 n

end Sys2Proof.Machine
end

