-- ==== Sys2Proof/Machine/Flags.lean ====
section
/-! DEFINITION. The one condition flag, `busy` (10_state.md rule R28), and the newline test of 43_line_buffer.md
rule R202. -/

namespace Sys2Proof.Machine

/-- `status[7]` (R85). -/
def statusBusy (status : Byte) : Bool := status.getLsbD 7

/-- `busy` from the working registers (R93): bit 7 of `(H << 4) | L`; no value while a nibble is missing. -/
def busyFlag : Option Nibble → Option Nibble → Option Bool
  | some h, some l => some (statusBusy (joinNibbles h l))
  | _, _ => none

/-- The value byte of READ_BUSY's answer, 0 or 1 (R97). -/
def busyByte (b : Bool) : Byte := bitByte b

/-- The least index of NEWLINE (R202, R203). -/
def newlineIndex : List Byte → Option Nat
  | [] => none
  | b :: rest => if b = Config.NEWLINE then some 0 else (newlineIndex rest).map (· + 1)

end Sys2Proof.Machine
end

