-- ==== Sys2Proof/Machine/Ops.lean ====
section
/-! DEFINITION. The shared operations: the line buffer's memory (20_memory.md rule R57), the transport calls and the
sleep (R52, R53, R56), answering and raising an error (60_exceptions.md rules R228 to R230), running the pseudocode one
call at a time against the environment's answers (10_state.md rule R27, 20_memory.md rule R72), and the pseudocode of
the operations itself (files 40 to 43). -/

namespace Sys2Proof.Machine

/-! ## The line buffer's memory -/

/-- The byte listed at `a`, if any. -/
def Memory.read (m : Memory) (a : Nat) : Option Byte :=
  match m with
  | [] => none
  | (b, v) :: rest => if b = a then some v else Memory.read rest a

/-- `m` with byte `v` at `a`, addresses kept rising. -/
def Memory.write (m : Memory) (a : Nat) (v : Byte) : Memory :=
  match m with
  | [] => [(a, v)]
  | (b, w) :: rest =>
    if a < b then (a, v) :: (b, w) :: rest
    else if b = a then (a, v) :: rest
    else (b, w) :: Memory.write rest a v

/-- Every address of `m` lies above `a`, and addresses rise strictly. -/
def Memory.above (a : Nat) : Memory → Bool
  | [] => true
  | (b, _) :: rest => decide (a < b) && Memory.above b rest

/-- The canonical form: addresses strictly rising, and all of them addresses that exist (0..32, R30). An unlisted
address has no value, so no entry can repeat it. -/
def Memory.wf : Memory → Bool
  | [] => true
  | (b, v) :: rest => Memory.above b rest && ((b, v) :: rest).all (fun c => decide (c.1 < Config.BUF_CAP))

/-- `LbRead(i)` (R57). -/
def lbRead (m : Memory) (i : Nat) : Except Fault Byte :=
  if i < Config.BUF_CAP then
    match m.read i with
    | some v => .ok v
    | none => .error (.lbUnwritten i)
  else .error (.lbOutOfRange i)

/-- `LbWrite(i, v)` (R57). -/
def lbWrite (m : Memory) (i : Nat) (v : Byte) : Except Fault Memory :=
  if i < Config.BUF_CAP then .ok (m.write i v) else .error (.lbOutOfRange i)

/-- LbWrite of consecutive bytes from index `i`, in rising order (R77 (b), R200). -/
def lbStore (m : Memory) (i : Nat) : List Byte → Except Fault Memory
  | [] => .ok m
  | v :: rest =>
    match lbWrite m i v with
    | .ok m' => lbStore m' (i + 1) rest
    | .error f => .error f

/-- LbRead of `n` consecutive bytes from index `i`, in rising order (R77 (b)). -/
def lbLoad (m : Memory) (i : Nat) : Nat → Except Fault (List Byte)
  | 0 => .ok []
  | n + 1 =>
    match lbRead m i, lbLoad m (i + 1) n with
    | .ok v, .ok rest => .ok (v :: rest)
    | .error f, _ => .error f
    | .ok _, .error f => .error f

/-! ## Small updates -/

/-- Append an event to the trace (R12). -/
def State.emit (s : State) (e : Event) : State := { s with trace := s.trace ++ [e] }

/-- The position becomes `p` (R27). -/
def State.goTo (s : State) (p : List Action) : State := { s with position := p }

/-- The answers that stand at the transport port (R238 (b)). -/
def State.withDraws (s : State) (ds : List Draw) : State := { s with draws := ds }

/-- `H <- v[7:4]` (R124). -/
def State.setH (s : State) (v : Byte) : State := { s with H := some (hiNibble v) }

/-- `L <- v[7:4]` (R124). -/
def State.setL (s : State) (v : Byte) : State := { s with L := some (hiNibble v) }

/-- `busy <- b` (R28). -/
def State.setBusy (s : State) (b : Option Bool) : State := { s with busy := b }

/-- `phase <- p` (R171). -/
def State.setPhase (s : State) (p : Phase) : State := { s with phase := p }

/-- `cursor <- pos` (R173, R174). -/
def State.setCursor (s : State) (pos : Nat) : State := { s with cursor := some pos }

/-- The line buffer's memory becomes `m` (R200). -/
def State.setLbBuf (s : State) (m : Memory) : State := { s with lbBuf := m }

/-- `lb_off <- n` (R200, R203). -/
def State.setLbOff (s : State) (n : Nat) : State := { s with lbOff := n }

/-- An operation returns: none is in flight and the working registers hold no value (R20, R27). -/
def State.idle (s : State) : State := { s with position := [], H := none, L := none, busy := none }

/-- The operation ends and its response is presented at the response port; the block is idle again once the response is
taken, by `State.takeResponse` (R238 (a)). -/
def State.finish (s : State) (r : Response) : State := { s.idle with response := some r }

/-- Error entry (R228): the operation in flight and its callers stop here and the error is answered. Nothing is saved,
nothing is undone, and the state registers keep what the finished part wrote (R229). There is no return beside the one of
every answer: the block is idle once the host has taken it (R230, R238 (a)). -/
def State.raiseError (s : State) (e : DriverError) : State := s.finish (.error e)

/-- The host takes the response (R238 (a)). -/
def State.takeResponse (s : State) : State := { s with response := none }

/-- The block while a response stands at the port: the host takes it when it is ready, and the block waits until then
(R238 (a), log 8). -/
def State.handshake (s : State) : State := if s.rspReady then s.takeResponse else s

/-- A write that the transport answered `Ok`: event `W(v)`, and the lines take the value (R52, R33). -/
def State.wrote (s : State) (v : Byte) : State := { s.emit (.write v) with port := some v }

/-- A write that failed: event `W(v)=err`, and the lines are unknown (R52). -/
def State.writeFailed (s : State) (v : Byte) : State := { s.emit (.writeErr v) with port := none }

/-! ## The pseudocode of the operations (R109) -/

/-- PULSE (R122): two writes. -/
def pulseCode (base : Byte) : List Action := [.write base, .write (enableLow base)]

/-- SendNibble (R150). -/
def sendNibbleCode (n : Nibble) (rs : Bool) : List Action := pulseCode (nibbleFrame n rs)

/-- READ_BUSY up to the flag (R124). -/
def readBusyCode : List Action :=
  [.write Config.BUSY_PROBE_HI, .readHi, .write Config.BUSY_PROBE_LO, .write Config.BUSY_PROBE_HI, .readLo, .status]

/-- One turn of WaitNotBusy's loop (R153): a status read, then the test, which sleeps and begins again or goes on. -/
def waitNotBusyCode : List Action := readBusyCode ++ [.testBusy]

/-- The four frames of a byte: both nibbles, high nibble first (R67, R90, R91). -/
def sendByteCode (b : Byte) (rs : Bool) : List Action :=
  sendNibbleCode (hiNibble b) rs ++ sendNibbleCode (loNibble b) rs

/-- SEND_HALF_COMMAND (R151): the high nibble once, RS = 0, no poll. -/
def sendHalfCommandCode (cmd : Byte) : List Action := sendNibbleCode (hiNibble cmd) false

/-- SEND_COMMAND (R152): the poll, then both nibbles with RS = 0. -/
def sendCommandCode (cmd : Byte) : List Action := waitNotBusyCode ++ sendByteCode cmd false

/-- SEND_DATA (R154): both nibbles with RS = 1 and no poll (R155). -/
def sendDataCode (b : Byte) : List Action := sendByteCode b true

/-- CLEAR (R173). -/
def clearCode : List Action := sendCommandCode Config.CMD_CLEAR ++ [.setCursor 0]

/-- SET_CURSOR after its range check (R174). -/
def setCursorCode (pos : Nat) : List Action := sendCommandCode (cursorCommand pos) ++ [.setCursor pos]

/-- PRINT_CHAR (R176). -/
def printCharCode (b : Byte) : List Action := sendDataCode b

/-- INIT (R171). -/
def initCode : List Action :=
  [.setPhase .uninitialized]
    ++ sendHalfCommandCode Config.CMD_4BIT_HALF ++ [.setPhase .functionSetPending]
    ++ sendCommandCode Config.CMD_FUNCTION_SET ++ [.setPhase .twoLineModePending]
    ++ sendCommandCode Config.CMD_DISPLAY_ON ++ [.setPhase .displayOnPending]
    ++ clearCode ++ [.setPhase .cleared]
    ++ setCursorCode 0 ++ [.setPhase .ready]

/-- FLUSH's character loop from index `i` on (R203): the reposition stands before index 16. -/
def printLoopCode (i : Nat) : List Byte → List Action
  | [] => []
  | b :: rest =>
    (if i = Config.COLUMNS then setCursorCode Config.COLUMNS else []) ++ printCharCode b ++ printLoopCode (i + 1) rest

/-- FLUSH of the bytes before the newline (R203). -/
def flushCode (text : List Byte) : List Action :=
  clearCode ++ setCursorCode 0 ++ printLoopCode 0 text ++ [.emptyBuffer]

/-! ## Running the pseudocode -/

/-- The statement needs an answer of the environment. -/
def Action.isCall : Action → Bool
  | .write _ | .readHi | .readLo => true
  | .status | .testBusy | .setPhase _ | .setCursor _ | .emptyBuffer | .answer _ | .answerBusy | .ret => false

/-- The block waits at a transport call (R238 (b)). -/
def State.awaiting (s : State) : Bool :=
  match s.position with
  | [] => false
  | a :: _ => a.isCall

/-- Run the statements of `code` that need no answer, up to the next transport call or the end. A busy answer sleeps
and starts the next status read (R153); a flag test without a flag value goes nowhere, and no operation contains one. -/
def State.settle : List Action → State → State
  | [], s => s.goTo []
  | .write v :: k, s => s.goTo (.write v :: k)
  | .readHi :: k, s => s.goTo (.readHi :: k)
  | .readLo :: k, s => s.goTo (.readLo :: k)
  | .status :: k, s => State.settle k (s.setBusy (busyFlag s.H s.L))
  | .testBusy :: k, s =>
    match s.busy with
    | some true => (s.emit (.sleep Config.BACKOFF_MS)).goTo (waitNotBusyCode ++ k)
    | some false => State.settle k s
    | none => s.goTo (.testBusy :: k)
  | .setPhase p :: k, s => State.settle k (s.setPhase p)
  | .setCursor pos :: k, s => State.settle k (s.setCursor pos)
  | .emptyBuffer :: k, s => State.settle k (s.setLbOff 0)
  | .answer v :: _, s => s.finish (.ok v)
  | .answerBusy :: k, s =>
    match s.busy with
    | some b => s.finish (.ok (some (busyByte b)))
    | none => s.goTo (.answerBusy :: k)
  | .ret :: _, s => s.idle

/-- The transport call at the head of the position gets its answer (R52, R53), and the statements up to the next call
run. A failed call ends the operation with BusError (R221, R228). -/
def State.call (d : Draw) (s : State) : State :=
  match s.position, d with
  | .write v :: k, .ok _ => State.settle k (s.wrote v)
  | .write v :: _, .err e => (s.writeFailed v).raiseError (.busError e)
  | .readHi :: k, .ok r => State.settle k ((s.emit (.read r)).setH r)
  | .readHi :: _, .err e => (s.emit .readErr).raiseError (.busError e)
  | .readLo :: k, .ok r => State.settle k ((s.emit (.read r)).setL r)
  | .readLo :: _, .err e => (s.emit .readErr).raiseError (.busError e)
  | _, _ => s

/-- Run against a list of answers until it is used up or the block no longer waits at a call; what is left stays at the
transport port. -/
def State.run : List Draw → State → State
  | [], s => s.withDraws []
  | d :: ds, s => if s.awaiting then State.run ds (s.call d) else s.withDraws (d :: ds)

/-- Begin `code` and run it as far as the answers at the transport port reach. -/
def State.start (code : List Action) (s : State) : State := State.run s.draws (State.settle code s)

/-- The block is idle: no operation is in flight, and the response of the last one has been taken (R238 (a)). -/
abbrev State.Idle (s : State) : Prop := s.position = [] ∧ s.response = none

/-- Only an idle block begins anything (R238 (a), R239 (a)). -/
def whenIdle (s : State) (k : State → Host.Outcome State Fault Refusal) : Host.Outcome State Fault Refusal :=
  match s.position, s.response with
  | [], none => k s
  | _, _ => .refused .requestInFlight

/-- An operation, as its pseudocode: a requested one presents its response in the last statement (`Action.answer`), one that
the block does on its own presents none unless it fails (`Action.ret`). -/
def perform (code : List Action) (s : State) : Host.Outcome State Fault Refusal :=
  whenIdle s fun s => .next (State.start code s)

/-- A requested operation that answers without any transport call. -/
def answerNow (r : Response) (s : State) : Host.Outcome State Fault Refusal :=
  whenIdle s fun s => .next (s.finish r)

/-- An operation in flight goes on: with the answers at the transport port or, where there are none, with one free
answer of the environment (R54, log 2). -/
def State.resume (s : State) : State :=
  let t := State.settle s.position s
  match t.awaiting, t.draws with
  | true, [] => State.run [Config.freeDraw t.drawCount] { t with drawCount := t.drawCount + 1 }
  | _, ds => State.run ds t

/-! ## Bytes taken from the transport on their own -/

/-- The block takes a read byte (R84): event `R=v`, and bits 7..4 go to H at the first read and to L at the second;
bits 3..0 are ignored. -/
def State.takeRead (s : State) (v : Byte) : State :=
  match s.H with
  | none => (s.emit (.read v)).setH v
  | some _ => (s.emit (.read v)).setL v

/-- The block takes the assembled status byte: bit 7 is the busy flag, the rest is discarded (R85). -/
def State.takeStatus (s : State) (v : Byte) : State := s.setBusy (some (statusBusy v))

/-! ## Reset -/

/-- Reset (R260, R261): every state register at its reset value and the block idle, nothing emitted and no response.
The inputs that others drive stay (log 10): the host's readiness to take a response, the request stream, the environment's
answers and the counter of free answers. -/
def State.applyReset (s : State) : State :=
  { State.reset with rspReady := s.rspReady, requests := s.requests, draws := s.draws, drawCount := s.drawCount }

end Sys2Proof.Machine
end

