-- ==== Sys2Proof/Machine/Codec.lean ====
section
/-! DEFINITION. 40_codec.md: ENCODE, PULSE and READ_BUSY, and the bytes these put on the transport or take from it
(30_encoding.md rules R80 and R83 to R85). -/

namespace Sys2Proof.Machine

/-- ENCODE (R120): a pure function; it answers the frame. -/
def execEncode (nibble : Nibble) (rs en bl : Bool) (s : State) : Host.Outcome State Fault Refusal :=
  answerNow (.ok (some (encodeFrame nibble rs en bl))) s

/-- PULSE (R122); a base with the enable bit clear is refused (R123 (c)). -/
def execPulse (base : Byte) (s : State) : Host.Outcome State Fault Refusal :=
  if base.getLsbD Config.EN_BIT then perform (pulseCode base ++ [.answer none]) s
  else whenIdle s fun _ => .refused (.pulseEnableClear base)

/-- READ_BUSY (R124). -/
def execReadBusy (s : State) : Host.Outcome State Fault Refusal := perform (readBusyCode ++ [.answerBusy]) s

/-- FRAME (R80, R52): BusWrite of the frame. -/
def execFrame (nibble : Nibble) (bl en rs : Bool) (s : State) : Host.Outcome State Fault Refusal :=
  perform [.write (packFrame nibble bl en false rs)] s

/-- BUSY_PROBE_HI (R83): BusWrite of 0xFE. -/
def execBusyProbeHi (s : State) : Host.Outcome State Fault Refusal := perform [.write Config.BUSY_PROBE_HI] s

/-- BUSY_PROBE_LO (R83): BusWrite of 0xFA. -/
def execBusyProbeLo (s : State) : Host.Outcome State Fault Refusal := perform [.write Config.BUSY_PROBE_LO] s

/-- READ_BYTE (R84, R53): a BusRead that returned this byte; its high nibble is taken. -/
def execReadByte (h x : Nibble) (s : State) : Host.Outcome State Fault Refusal :=
  whenIdle s fun s => .next (s.takeRead (joinNibbles h x))

/-- STATUS (R85): the busy flag is taken from the status byte. -/
def execStatus (b : Bool) (a : BitVec 7) (s : State) : Host.Outcome State Fault Refusal :=
  whenIdle s fun s => .next (s.takeStatus (packStatus b a))

end Sys2Proof.Machine
end

