-- ==== Sys2Proof/Machine/Display.lean ====
section
/-! DEFINITION. 42_display_sequencer.md: INIT, CLEAR, SET_CURSOR and PRINT_CHAR. -/

namespace Sys2Proof.Machine

/-- INIT (R171, R172). -/
def execInit (s : State) : Host.Outcome State Fault Refusal := perform (initCode ++ [.answer none]) s

/-- CLEAR (R173). -/
def execClear (s : State) : Host.Outcome State Fault Refusal := perform (clearCode ++ [.answer none]) s

/-- SET_CURSOR (R174): the range check comes before any transport call and any state change. -/
def execSetCursor (pos : Int) (s : State) : Host.Outcome State Fault Refusal :=
  if posInRange pos then perform (setCursorCode pos.toNat ++ [.answer none]) s
  else whenIdle s fun s => .next (s.raiseError .invalidArgument)

/-- PRINT_CHAR (R176). -/
def execPrintChar (b : Byte) (s : State) : Host.Outcome State Fault Refusal :=
  perform (printCharCode b ++ [.answer none]) s

end Sys2Proof.Machine
end

