-- ==== Sys2Proof/Machine/LineBuffer.lean ====
section
/-! DEFINITION. 43_line_buffer.md: APPEND and FLUSH. -/

namespace Sys2Proof.Machine

/-- The bytes that FLUSH prints, those before the first NEWLINE of the valid part, or none where the valid part holds no
NEWLINE (R202, R203). -/
def State.message (s : State) : Except Fault (Option (List Byte)) :=
  match lbLoad s.lbBuf 0 s.lbOff with
  | .error f => .error f
  | .ok valid => .ok ((newlineIndex valid).map valid.take)

/-- APPEND after its checks (R200): the bytes are stored, the newline test runs, and a NEWLINE flushes. -/
def appendStored (bytes : List Byte) (s : State) : Host.Outcome State Fault Refusal :=
  match s.message with
  | .error f => .fault f
  | .ok none => .next (s.finish (.ok (some (countByte bytes.length))))
  | .ok (some text) => perform (flushCode text ++ [.answer (some (countByte bytes.length))]) s

/-- APPEND (R200): the offset duty (R201), the capacity check, the store, the newline test. -/
def execAppend (offset : Nat) (bytes : List Byte) (s : State) : Host.Outcome State Fault Refusal :=
  whenIdle s fun s =>
    if offset ≠ s.lbOff then .refused (.offsetMismatch offset s.lbOff)
    else if Config.BUF_CAP < offset + bytes.length then
      .next ((s.setLbOff 0).raiseError .messageTooLong)
    else
      match lbStore s.lbBuf offset bytes with
      | .error f => .fault f
      | .ok m => appendStored bytes ((s.setLbBuf m).setLbOff (offset + bytes.length))

/-- FLUSH (R203); without a NEWLINE in the valid part it has no meaning. -/
def execFlush (s : State) : Host.Outcome State Fault Refusal :=
  whenIdle s fun s =>
    match s.message with
    | .error f => .fault f
    | .ok none => .refused .flushWithoutNewline
    | .ok (some text) => perform (flushCode text ++ [.ret]) s

end Sys2Proof.Machine
end

