-- ==== Sys2Proof/Machine/Nibble.lean ====
section
/-! DEFINITION. 41_nibble_protocol.md: SEND_HALF_COMMAND, SEND_COMMAND and SEND_DATA, and the LCD bytes they carry
(30_encoding.md rules R86 to R89): sending such a byte is the sending operation without a response of its own. -/

namespace Sys2Proof.Machine

/-- SEND_HALF_COMMAND (R151). -/
def execSendHalfCommand (cmd : Byte) (s : State) : Host.Outcome State Fault Refusal :=
  perform (sendHalfCommandCode cmd ++ [.answer none]) s

/-- SEND_COMMAND (R152, R153). -/
def execSendCommand (cmd : Byte) (s : State) : Host.Outcome State Fault Refusal :=
  perform (sendCommandCode cmd ++ [.answer none]) s

/-- SEND_DATA (R154). -/
def execSendData (b : Byte) (s : State) : Host.Outcome State Fault Refusal :=
  perform (sendDataCode b ++ [.answer none]) s

/-- LCD.FUNCTION_SET_4BIT_HALF (R87): 0x20 as a half command. -/
def execLcdFunctionSet4BitHalf (s : State) : Host.Outcome State Fault Refusal :=
  perform (sendHalfCommandCode Config.CMD_4BIT_HALF ++ [.ret]) s

/-- LCD.FUNCTION_SET_2LINE (R87): 0x28 as a command. -/
def execLcdFunctionSet2Line (s : State) : Host.Outcome State Fault Refusal :=
  perform (sendCommandCode Config.CMD_FUNCTION_SET ++ [.ret]) s

/-- LCD.DISPLAY_ON_CURSOR_BLINK (R87): 0x0F as a command. -/
def execLcdDisplayOnCursorBlink (s : State) : Host.Outcome State Fault Refusal :=
  perform (sendCommandCode Config.CMD_DISPLAY_ON ++ [.ret]) s

/-- LCD.CLEAR (R87): 0x01 as a command; the byte alone does not write `cursor` (D13). -/
def execLcdClear (s : State) : Host.Outcome State Fault Refusal :=
  perform (sendCommandCode Config.CMD_CLEAR ++ [.ret]) s

/-- LCD.SET_DDRAM_ADDR (R88): `0x80 | a` as a command; the byte alone does not write `cursor` (D13). The row's field admits
all 128 addresses, and run on its own it sends any of them: DESIGN CHOICE (log 15), since R58 and R88 say that the block
itself emits only 0x00..0x0F and 0x40..0x4F, never 0x10..0x3F or 0x50..0x7F. -/
def execLcdSetDdramAddr (a : BitVec 7) (s : State) : Host.Outcome State Fault Refusal :=
  perform (sendCommandCode (packDdramCommand a) ++ [.ret]) s

/-- LCD.DATA (R89): a data byte, sent unchanged with RS = 1. -/
def execLcdData (d : Byte) (s : State) : Host.Outcome State Fault Refusal :=
  perform (sendDataCode d ++ [.ret]) s

end Sys2Proof.Machine
end

