-- ==== Sys2Proof/Machine/Port.lean ====
section
/-! DEFINITION. The host's ports (60_exceptions.md rule R238): op bytes that name no operation, the response word, and
taking the next item of the request stream. -/

namespace Sys2Proof.Machine

/-- REQ.INVALID (R98): the request has no meaning. -/
def execReqInvalid (op : Byte) (s : State) : Host.Outcome State Fault Refusal :=
  whenIdle s fun _ => .refused (.noSuchOperation op)

/-- RESPONSE (R97, R238 (a)): the response is presented, for the host to take. -/
def execResponse (r : Response) (s : State) : Host.Outcome State Fault Refusal := answerNow r s

/-- What stands at the request port of an idle block. -/
inductive Fetched where
  /-- Nothing: the block stays idle. -/
  | nothing
  /-- Bytes that are no item. -/
  | bad (e : DecodeError)
  /-- An item, and the state with its bytes taken. -/
  | item (i : Instr) (s : State)
deriving DecidableEq, Repr

/-- Take the next item of the request stream, in issue order and without look-ahead (R75, D25). -/
def State.fetch (s : State) : Fetched :=
  match s.lane, s.requests with
  | .req, [] => .nothing
  | f, bytes =>
    match decodeAs f bytes with
    | .error e => .bad e
    | .ok (i, rest) => .item i { s with requests := rest, lane := .req }

end Sys2Proof.Machine
end

