-- ==== Sys2Proof/Machine/Dispatch.lean ====
section
/-! DEFINITION. Every instruction's meaning, one arm each. -/

namespace Sys2Proof.Machine

def exec (i : Instr) (s : State) : Host.Outcome State Fault Refusal :=
  match i with
  | .init => Sys2Proof.Machine.execInit s
  | .clear => Sys2Proof.Machine.execClear s
  | .setCursor pos => Sys2Proof.Machine.execSetCursor pos s
  | .printChar b => Sys2Proof.Machine.execPrintChar b s
  | .sendCommand cmd => Sys2Proof.Machine.execSendCommand cmd s
  | .sendData b => Sys2Proof.Machine.execSendData b s
  | .sendHalfCommand cmd => Sys2Proof.Machine.execSendHalfCommand cmd s
  | .readBusy => Sys2Proof.Machine.execReadBusy s
  | .pulse base => Sys2Proof.Machine.execPulse base s
  | .encode nibble rs en bl => Sys2Proof.Machine.execEncode nibble rs en bl s
  | .append offset bytes => Sys2Proof.Machine.execAppend offset bytes s
  | .flush => Sys2Proof.Machine.execFlush s
  | .reqInvalid op => Sys2Proof.Machine.execReqInvalid op s
  | .frame nibble bl en rs => Sys2Proof.Machine.execFrame nibble bl en rs s
  | .busyProbeHi => Sys2Proof.Machine.execBusyProbeHi s
  | .busyProbeLo => Sys2Proof.Machine.execBusyProbeLo s
  | .readByte h x => Sys2Proof.Machine.execReadByte h x s
  | .status b a => Sys2Proof.Machine.execStatus b a s
  | .lcdFunctionSet4BitHalf => Sys2Proof.Machine.execLcdFunctionSet4BitHalf s
  | .lcdFunctionSet2Line => Sys2Proof.Machine.execLcdFunctionSet2Line s
  | .lcdDisplayOnCursorBlink => Sys2Proof.Machine.execLcdDisplayOnCursorBlink s
  | .lcdClear => Sys2Proof.Machine.execLcdClear s
  | .lcdSetDdramAddr a => Sys2Proof.Machine.execLcdSetDdramAddr a s
  | .lcdData d => Sys2Proof.Machine.execLcdData d s
  | .response r => Sys2Proof.Machine.execResponse r s

end Sys2Proof.Machine
end

