-- ==== Sys2Proof/Machine/Step.lean ====
section
/-! DEFINITION. One step: reset if it is asserted (R260), else the operation in flight goes on, else the response that
stands is taken (R238 (a)), else the next item of the request stream runs; an idle block with nothing requested stays as
it is (R242). -/

namespace Sys2Proof.Machine

/-- One step of the block. -/
def step (s : State) : Host.Outcome State Fault Refusal :=
  if s.resetLine then .next s.applyReset
  else
    match s.position, s.response with
    | _ :: _, _ => .next s.resume
    | [], some _ => .next s.handshake
    | [], none =>
      match s.fetch with
      | .nothing => .next s
      | .bad e => .refused (.undecodable e)
      | .item i t => exec i t

/-- `s` with a table word at the request port, read in its format, and the block idle and out of reset, as a fetch needs
it: the very next step runs the word (log 3). -/
def State.withFetchWord (s : State) (nbits w : Nat) : State :=
  { s with requests := tableWord nbits w, lane := tableFormat (tableBytes nbits w), position := [], response := none,
           resetLine := false }

end Sys2Proof.Machine
end

