-- ==== Sys2Proof/Safety.lean ====
section
/-! DEFINITION. What a good state is (`Inv`), which bytes the sequenced operations may write (30_encoding.md rule R99), and
the terms in which claims describe an environment: the answers it gives to a status read, a poll and a command, and the
trace they make. -/

namespace Sys2Proof.Machine

/-! ## Outcomes -/

/-- The next state, where there is one. -/
def nextState : Host.Outcome State Fault Refusal → Option State
  | .next s => some s
  | .fault _ => none
  | .refused _ => none

/-- The refusal, where there is one. -/
def refusalOf : Host.Outcome State Fault Refusal → Option Refusal
  | .next _ => none
  | .fault _ => none
  | .refused r => some r

/-! ## Good states -/

/-- The lines after events, oldest first, from what they were before (R33, R52): the last successful write drives them, a
failed write leaves them unknown, nothing else changes them. -/
def portFrom (p : Option Byte) (evs : List Event) : Option Byte :=
  evs.foldl
    (fun p e =>
      match e with
      | .write v => some v
      | .writeErr _ => none
      | .read _ => p
      | .readErr => p
      | .sleep _ => p)
    p

/-- The lines after all events since reset; unknown before any write (R33, R36). -/
def portAfter (evs : List Event) : Option Byte := portFrom none evs

/-- A statement that writes `cursor` writes a position 0..31 (R22). -/
def Action.legal : Action → Bool
  | .setCursor pos => decide (pos < Config.CELLS)
  | .write _ | .readHi | .readLo | .status | .testBusy | .setPhase _ | .emptyBuffer | .answer _ | .answerBusy
  | .ret => true

/-- Along `code`, H and L are read only after both reads and `busy` is read only after a status byte was assembled,
given which of the three hold a value at its start (R124: they exist only inside an operation). -/
def flagsReady (h l b : Bool) : List Action → Bool
  | [] => true
  | .readHi :: k => flagsReady true l b k
  | .readLo :: k => flagsReady h true b k
  | .status :: k => h && l && flagsReady h l true k
  | .testBusy :: k => b && flagsReady h l b k
  | .answerBusy :: k => b && flagsReady h l b k
  | .write _ :: k => flagsReady h l b k
  | .setPhase _ :: k => flagsReady h l b k
  | .setCursor _ :: k => flagsReady h l b k
  | .emptyBuffer :: k => flagsReady h l b k
  | .answer _ :: k => flagsReady h l b k
  | .ret :: k => flagsReady h l b k

/-- What holds of the block in every state it can reach. -/
structure Inv (s : State) : Prop where
  /-- The line buffer's memory is in its canonical form (R30). -/
  memory : s.lbBuf.wf = true
  /-- 0 <= lb_off <= 33 (R30). -/
  offset : s.lbOff ≤ Config.BUF_CAP
  /-- Every byte of the valid part has been stored (R30). -/
  stored : ∀ i, i < s.lbOff → (s.lbBuf.read i).isSome = true
  /-- `cursor` is none or 0..31 (R22). -/
  cursor : ∀ c, s.cursor = some c → c < Config.CELLS
  /-- The lines hold what the trace says (R33, R52). -/
  port : s.port = portAfter s.trace
  /-- No operation is in flight, or the block waits at a transport call (R27, R238). -/
  waits : s.position = [] ∨ s.awaiting = true
  /-- While an operation is in flight no response stands: it was taken before the block was idle again (R238 (a)). -/
  answered : s.position = [] ∨ s.response = none
  /-- Every cursor write still to come is in range (R22). -/
  legal : s.position.all Action.legal = true
  /-- No flag is tested before it is computed (R28, R124). -/
  ready : flagsReady s.H.isSome s.L.isSome s.busy.isSome s.position = true
  /-- Items come from the request port as requests (R96). -/
  lane : s.lane = .req

/-! ## Events -/

/-- A byte that a sequenced operation may write (R99): `nnnn1e0s`, or a busy probe. -/
def sequencedByte (v : Byte) : Bool :=
  decide (v = Config.BUSY_PROBE_HI) || decide (v = Config.BUSY_PROBE_LO)
    || (v.getLsbD Config.BL_BIT && !v.getLsbD Config.RW_BIT)

/-- The byte handed to the transport by a write, successful or not. -/
def Event.written : Event → Option Byte
  | .write v => some v
  | .writeErr v => some v
  | .read _ => none
  | .readErr => none
  | .sleep _ => none

/-- The event is a failed transport call. -/
def Event.failed : Event → Bool
  | .writeErr _ => true
  | .readErr => true
  | .write _ => false
  | .read _ => false
  | .sleep _ => false

/-- The event is a transport call (R72), not a sleep. -/
def Event.isCall : Event → Bool
  | .write _ => true
  | .writeErr _ => true
  | .read _ => true
  | .readErr => true
  | .sleep _ => false

/-- The event of the same call where the transport answers `Err` (R52, R53). -/
def Event.asFailed : Event → Event
  | .write v => .writeErr v
  | .writeErr v => .writeErr v
  | .read _ => .readErr
  | .readErr => .readErr
  | .sleep ms => .sleep ms

/-- The event is the one that a transport call makes when it gets the answer `d`: a write or a read on `Ok`, the read with
the byte of the answer, and the failed call on `Err` (R52, R53). -/
def Event.answeredBy : Event → Draw → Bool
  | .write _, .ok _ => true
  | .read v, .ok w => decide (v = w)
  | .writeErr _, .err _ => true
  | .readErr, .err _ => true
  | _, _ => false

/-- `call` is the transport call number `n` of `evs`, counting from 0, and `done` are the events before it. -/
def CallAt (evs : List Event) (n : Nat) (done : List Event) (call : Event) : Prop :=
  done ++ [call] <+: evs ∧ (done.filter Event.isCall).length = n ∧ call.isCall = true

/-- A write of a byte other than the two busy probes. -/
def Event.isFrame (e : Event) : Bool :=
  match e.written with
  | some v => decide (v ≠ Config.BUSY_PROBE_HI) && decide (v ≠ Config.BUSY_PROBE_LO)
  | none => false

/-! ## An environment that answers -/

/-- The bytes an environment gives in one successful status read (R124): `r1` and `r2` are read, the other three answer
writes, which ignore them. -/
structure StatusRead where
  (a r1 b c r2 : Byte)
deriving DecidableEq, Repr

def StatusRead.draws (q : StatusRead) : List Draw := [.ok q.a, .ok q.r1, .ok q.b, .ok q.c, .ok q.r2]

/-- `W(FE) R=r1 W(FA) W(FE) R=r2` (R124). -/
def StatusRead.events (q : StatusRead) : List Event :=
  [.write 0xFE#8, .read q.r1, .write 0xFA#8, .write 0xFE#8, .read q.r2]

/-- Bit 7 of the first read byte (R93). -/
def StatusRead.saysBusy (q : StatusRead) : Bool := q.r1.getLsbD 7

/-- Busy answers, each with the sleep after it (R153). -/
def busyEvents (qs : List StatusRead) : List Event := qs.flatMap fun q => q.events ++ [.sleep 10]

def busyDraws (qs : List StatusRead) : List Draw := qs.flatMap StatusRead.draws

/-- The environment's answers to one SEND_COMMAND that succeeds: the busy answers, the clear one, and the answers to the
four frame writes. -/
structure CommandRun where
  (busy : List StatusRead)
  (last : StatusRead)
  (w1 w2 w3 w4 : Byte)
deriving DecidableEq, Repr

/-- Every answer before the last says busy and the last one says clear. -/
def CommandRun.clears (c : CommandRun) : Prop :=
  (∀ q ∈ c.busy, q.saysBusy = true) ∧ c.last.saysBusy = false

def CommandRun.draws (c : CommandRun) : List Draw :=
  busyDraws c.busy ++ c.last.draws ++ [.ok c.w1, .ok c.w2, .ok c.w3, .ok c.w4]

/-- The trace of SEND_COMMAND (R152, R153) for command byte `cmd`, frames by the formulas of R91. -/
def CommandRun.events (c : CommandRun) (cmd : Byte) : List Event :=
  busyEvents c.busy ++ c.last.events
    ++ [.write ((cmd &&& 0xF0#8) ||| 0x0C#8), .write ((cmd &&& 0xF0#8) ||| 0x08#8),
        .write (((cmd &&& 0x0F#8) <<< 4) ||| 0x0C#8), .write (((cmd &&& 0x0F#8) <<< 4) ||| 0x08#8)]

/-- The trace of SEND_DATA (R154), frames by the formulas of R91 with s = 1. -/
def dataEvents (b : Byte) : List Event :=
  [.write ((b &&& 0xF0#8) ||| 0x0D#8), .write ((b &&& 0xF0#8) ||| 0x09#8),
   .write (((b &&& 0x0F#8) <<< 4) ||| 0x0D#8), .write (((b &&& 0x0F#8) <<< 4) ||| 0x09#8)]

/-- The environment's answers to a flush that succeeds: CLEAR, SET_CURSOR(0), the data writes of line 1, SET_CURSOR(16)
where there is a 17th character, the data writes of line 2 (R203). -/
structure FlushRun where
  (clear home wrap : CommandRun)
  (line1 line2 : List Byte)
deriving DecidableEq, Repr

/-- The answers fit a message of `k` characters. -/
def FlushRun.fits (f : FlushRun) (k : Nat) : Prop :=
  f.clear.clears ∧ f.home.clears ∧ f.wrap.clears
    ∧ f.line1.length = 4 * min k 16 ∧ f.line2.length = 4 * (k - 16)

def FlushRun.draws (f : FlushRun) (k : Nat) : List Draw :=
  f.clear.draws ++ f.home.draws ++ f.line1.map .ok ++ (if 16 < k then f.wrap.draws else []) ++ f.line2.map .ok

/-- The trace of a flush of `text` (R203). -/
def FlushRun.events (f : FlushRun) (text : List Byte) : List Event :=
  f.clear.events 0x01#8 ++ f.home.events 0x80#8 ++ (text.take 16).flatMap dataEvents
    ++ (if 16 < text.length then f.wrap.events 0xC0#8 else []) ++ (text.drop 16).flatMap dataEvents

/-- The environment's answers to an INIT that succeeds (R171). -/
structure InitRun where
  (w1 w2 : Byte)
  (functionSet displayOn clear home : CommandRun)
deriving DecidableEq, Repr

def InitRun.clears (r : InitRun) : Prop :=
  r.functionSet.clears ∧ r.displayOn.clears ∧ r.clear.clears ∧ r.home.clears

def InitRun.draws (r : InitRun) : List Draw :=
  [.ok r.w1, .ok r.w2] ++ r.functionSet.draws ++ r.displayOn.draws ++ r.clear.draws ++ r.home.draws

/-- The trace of INIT (R171). -/
def InitRun.events (r : InitRun) : List Event :=
  [.write 0x2C#8, .write 0x28#8] ++ r.functionSet.events 0x28#8 ++ r.displayOn.events 0x0F#8
    ++ r.clear.events 0x01#8 ++ r.home.events 0x80#8

/-! ## What an operation leaves -/

/-- `s` after an operation that appended `evs`, left the answers `rest` and answered `r`: none is in flight, the working
registers hold no value, the lines follow the events, and nothing else has changed. -/
def State.after (s : State) (evs : List Event) (rest : List Draw) (r : Response) : State :=
  { s with
    position := [], H := none, L := none, busy := none, draws := rest, trace := s.trace ++ evs,
    port := portFrom s.port evs, response := some r }

/-- `s` after an internal operation: as `State.after`, but no response is presented. -/
def State.afterItem (s : State) (evs : List Event) (rest : List Draw) : State :=
  { s with
    position := [], H := none, L := none, busy := none, draws := rest, trace := s.trace ++ evs,
    port := portFrom s.port evs }

/-- `t` is `s` after an operation whose transport call number `n` (counting from 0) failed with `e`, where `evs` would have
been its events: those before that call happened, the last event is that very call failed (`W(v)=err` with its byte, or
`R=err`), nothing after it, BusError(e) is answered, and no operation is in flight (R52, R53, R228, R230). -/
def StoppedAt (s t : State) (evs : List Event) (n : Nat) (e : BusErrInfo) (rest : List Draw) : Prop :=
  t.position = [] ∧ t.response = some (.error (.busError e)) ∧ t.draws = rest ∧ t.requests = s.requests
    ∧ ∃ done call, CallAt evs n done call ∧ t.trace = s.trace ++ done ++ [call.asFailed]
      ∧ t.port = portFrom s.port (done ++ [call.asFailed])

/-- Where an operation polls: the answers it has taken and the events it has made before, and the registers it has written
(none is a register not written). -/
structure PollPoint where
  (draws : List Draw)
  (events : List Event)
  (phase : Option Phase)
  (cursor : Option Nat)
deriving DecidableEq, Repr

/-- The polls of INIT, in steps 2 to 5 (R171). -/
def InitRun.polls (r : InitRun) : List PollPoint :=
  let d2 := [.ok r.w1, .ok r.w2]
  let d3 := d2 ++ r.functionSet.draws
  let d4 := d3 ++ r.displayOn.draws
  let e2 := [.write 0x2C#8, .write 0x28#8]
  let e3 := e2 ++ r.functionSet.events 0x28#8
  let e4 := e3 ++ r.displayOn.events 0x0F#8
  [⟨d2, e2, some .functionSetPending, none⟩, ⟨d3, e3, some .twoLineModePending, none⟩,
   ⟨d4, e4, some .displayOnPending, none⟩,
   ⟨d4 ++ r.clear.draws, e4 ++ r.clear.events 0x01#8, some .cleared, some 0⟩]

/-- The polls of a flush of `text`: in CLEAR, in SET_CURSOR(0), and in SET_CURSOR(16) where there is a 17th character
(R203). -/
def FlushRun.polls (f : FlushRun) (text : List Byte) : List PollPoint :=
  let d2 := f.clear.draws ++ f.home.draws
  let e2 := f.clear.events 0x01#8 ++ f.home.events 0x80#8
  [⟨[], [], none, none⟩, ⟨f.clear.draws, f.clear.events 0x01#8, none, some 0⟩]
    ++ (if 16 < text.length then
          [⟨d2 ++ f.line1.map .ok, e2 ++ (text.take 16).flatMap dataEvents, none, some 0⟩]
        else [])

/-- `i`, begun in `s` and brought to its poll `p`, never answers while every status read says busy: however many come, in
the step that begins `i` (`qs`) and in the next one (`more`), it makes the status reads with a sleep after each, and
writes no register; those it had written before the poll are `p`'s, and the others are those of `base`. -/
def PollsForEver (i : Instr) (s base : State) (p : PollPoint) : Prop :=
  ∀ qs more : List StatusRead, (∀ q ∈ qs ++ more, q.saysBusy = true) → more ≠ [] →
    ∃ t u, exec i { s with draws := p.draws ++ busyDraws qs } = .next t
      ∧ t.position ≠ [] ∧ t.draws = [] ∧ t.trace = s.trace ++ p.events ++ busyEvents qs
      ∧ t = { t with phase := p.phase.getD base.phase, cursor := p.cursor.or base.cursor, lbBuf := base.lbBuf,
                     lbOff := base.lbOff, response := base.response }
      ∧ step { t with draws := busyDraws more } = .next u
      ∧ u = { t with trace := s.trace ++ p.events ++ busyEvents (qs ++ more), port := some 0xFE#8, H := u.H, L := u.L,
                     busy := some true }

/-- From `s` to `t` the trace grew by `calls` transport calls and `sleeps` sleeps of 10 ms (R94, R282). -/
def CallsMade (s t : State) (calls sleeps : Nat) : Prop :=
  ∃ evs, t.trace = s.trace ++ evs ∧ (evs.filter Event.isCall).length = calls
    ∧ evs.filter (fun e => !e.isCall) = List.replicate sleeps (.sleep 10)

/-- The valid part of the line buffer as a list, where every byte of it has been stored (R30). -/
def State.validIs (s : State) (valid : List Byte) : Prop :=
  valid.length = s.lbOff ∧ ∀ i b, valid[i]? = some b → s.lbBuf.read i = some b

/-- The line buffer memory `m` after `bytes` were stored from index `i` on in `m0`, read byte by byte. -/
def StoredFrom (m0 m : Memory) (i : Nat) (bytes : List Byte) : Prop :=
  ∀ a, m.read a = if i ≤ a ∧ a < i + bytes.length then bytes[a - i]? else m0.read a

end Sys2Proof.Machine
end

