-- ==== Sys2Proof/Certificates/Slice0/Obligations.lean ====
section
/-! DEFINITION. The statements about the model, from the numbered rules of spec/. `draws` are the environment's answers:
a statement that names them holds for every environment that gives those answers, and every statement leaves the free
answers (`Config.freeDraw`) free. -/

open Sys2Proof Sys2Proof.Machine

/-! ## Encodings -/

/-- Decoding the encoding of a well-formed instruction gives it back, every operand included, in the format of its row;
for requests also with more of the request stream behind it (R80, R83 to R89, R96, R97). The request and response words are
the spec's own decisions D2 and D3. -/
def Obligations.DecodeOfEncodeIsIdentity : Prop :=
  ∀ i : Instr, i.wellFormed = true →
    decodeAs i.format (encode i) = .ok (i, [])
      ∧ (i.format = .req → ∀ rest, decodeAs .req (encode i ++ rest) = .ok (i, rest))

/-- What a decoder accepts is exactly the encoding of the instruction it answers: no bit is dropped and no word has two
readings in one format (R80, R83 to R89, R96 to R98). That other bytes are rejected is the model's choice (log 23). -/
def Obligations.AcceptedBytesAreTheEncoding : Prop :=
  ∀ (f : Format) (bytes : List Byte) (i : Instr) (rest : List Byte),
    decodeAs f bytes = .ok (i, rest) →
      i.wellFormed = true ∧ i.format = f ∧ bytes = encode i ++ rest

/-- Words of 95_test_vectors.md section 2.7 and of the tables of 30_encoding.md, written out. -/
def Obligations.WrittenOutWordsDecode : Prop :=
  decodeAs .req [0x00#8] = .ok (.init, [])
    ∧ decodeAs .req [0x02#8, 0x80#8] = .ok (.setCursor (-128), [])
    ∧ decodeAs .req [0x06#8, 0x20#8] = .ok (.sendHalfCommand 0x20#8, [])
    ∧ decodeAs .req [0x09#8, 0x7A#8] = .ok (.encode 0xA#4 true true true, [])
    ∧ decodeAs .req [0x0A#8, 0x00#8, 0x02#8, 0x48#8, 0x0A#8] = .ok (.append 0 [0x48#8, 0x0A#8], [])
    ∧ decodeAs .xbyte [0x2C#8] = .ok (.frame 0x2#4 true true false, [])
    ∧ decodeAs .xbyte [0xFA#8] = .ok (.busyProbeLo, [])
    ∧ decodeAs .xbyteIn [0x8E#8] = .ok (.readByte 0x8#4 0xE#4, [])
    ∧ decodeAs .lcdStatus [0x80#8] = .ok (.status true 0#7, [])
    ∧ decodeAs .lcdCmd [0xC0#8] = .ok (.lcdSetDdramAddr 0x40#7, [])
    ∧ decodeAs .lcdData [0x48#8] = .ok (.lcdData 0x48#8, [])
    ∧ decodeAs .rsp [0x02#8] = .ok (.response (.error .invalidArgument), [])

/-- R98: at the request port of an idle block, an op byte 0x0B..0xFF, an ENCODE operand with bit 7 set and a PULSE operand
with bit 2 clear are refused, each under its own name; so are the instructions REQ.INVALID and PULSE with such a base.
(R98 is the spec's decisions D2 and D10; the names and `lane` are the model's, logs 3 and 23.) -/
def Obligations.InvalidRequestsAreRefused : Prop :=
  (∀ (s : State) (rest : List Byte), s.Idle → s.lane = .req → s.resetLine = false →
    (∀ op : Byte, 0x0B ≤ op.toNat → s.requests = op :: rest → step s = .refused (.noSuchOperation op))
    ∧ (∀ p : Byte, p.getLsbD 7 = true → s.requests = 0x09#8 :: p :: rest →
        step s = .refused (.undecodable .encodeBitSevenSet))
    ∧ (∀ p : Byte, p.getLsbD 2 = false → s.requests = 0x08#8 :: p :: rest →
        step s = .refused (.undecodable .pulseEnableClear)))
  ∧ (∀ (s : State) (op base : Byte), s.Idle →
      exec (.reqInvalid op) s = .refused (.noSuchOperation op)
      ∧ (base.getLsbD 2 = false → exec (.pulse base) s = .refused (.pulseEnableClear base)))

/-- R80, R101: the five fields of a frame stand on disjoint bits, the nibble in bits 7..4, backlight in bit 3, enable in
bit 2, read/write in bit 1 and register select in bit 0, so that the OR equals the sum. -/
def Obligations.FrameFieldsAreDisjoint : Prop :=
  ∀ (n : Nibble) (bl en rw rs : Bool),
    (packFrame n bl en rw rs).toNat
        = n.toNat * 16 + bl.toNat * 8 + en.toNat * 4 + rw.toNat * 2 + rs.toNat
      ∧ (packFrame n bl en rw rs).extractLsb' 4 4 = n
      ∧ (packFrame n bl en rw rs).getLsbD 3 = bl
      ∧ (packFrame n bl en rw rs).getLsbD 2 = en
      ∧ (packFrame n bl en rw rs).getLsbD 1 = rw
      ∧ (packFrame n bl en rw rs).getLsbD 0 = rs

/-- R103, R90: `(H << 4) | L` is `16*H + L`, below 256, with `H[3]` as bit 7, and a byte is its two nibbles joined. -/
def Obligations.NibblesJoinToTheByte : Prop :=
  ∀ (b : Byte) (h l : Nibble),
    joinNibbles h l = ((h.setWidth 8 <<< 4) ||| l.setWidth 8)
      ∧ (joinNibbles h l).toNat = 16 * h.toNat + l.toNat ∧ 16 * h.toNat + l.toNat < 256
      ∧ (joinNibbles h l).getLsbD 7 = h.getLsbD 3
      ∧ (hiNibble b).setWidth 8 = b >>> 4 ∧ (loNibble b).setWidth 8 = b &&& 0x0F#8
      ∧ joinNibbles (hiNibble b) (loNibble b) = b

/-- R97: the response word's status codes and values, and that the response the block presents is read back from its
word (decision D3); that 4..255 is rejected is the model's choice (log 23). -/
def Obligations.ResponseWordsHaveTheirStatus : Prop :=
  ∀ (v : Byte) (e : BusErrInfo),
    encodeResponse (.ok none) = [0#8] ∧ encodeResponse (.ok (some v)) = [0#8, v]
      ∧ encodeResponse (.error (.busError e)) = 1#8 :: e
      ∧ encodeResponse (.error .invalidArgument) = [2#8]
      ∧ encodeResponse (.error .messageTooLong) = [3#8]
      ∧ ∀ st : Byte, 4 ≤ st.toNat → decodeAs .rsp (st :: e) = .error .responseStatusUnused

/-! ## Codec operations -/

/-- R120: ENCODE answers `(nibble << 4) | (backlight << 3) | (enable << 2) | (0 << 1) | register_select`; no transport
call, no event, nothing else written. -/
def Obligations.EncodeAnswersTheFrame : Prop :=
  ∀ (n : Nibble) (rs en bl : Bool) (s : State), s.Idle →
    exec (.encode n rs en bl) s
      = .next (s.after [] s.draws (.ok (some
          ((n.setWidth 8 <<< 4) ||| ((BitVec.ofBool bl).setWidth 8 <<< 3) ||| ((BitVec.ofBool en).setWidth 8 <<< 2)
            ||| (BitVec.ofBool rs).setWidth 8))))
      ∧ encodeFrame n rs en = encodeFrame n rs en true

/-- R121: ENCODE's operands can be read back, bit 1 is never set, clearing the enable bit of an enable-high frame gives
the enable-low frame, and with backlight 1 the results are the 64 bytes of the table ("derived: from rule R120"). -/
def Obligations.EncodeIsInjective : Prop :=
  (∀ (n : Nibble) (rs en bl : Bool),
    (encodeFrame n rs en bl).extractLsb' 4 4 = n ∧ (encodeFrame n rs en bl).getLsbD 0 = rs
      ∧ (encodeFrame n rs en bl).getLsbD 2 = en ∧ (encodeFrame n rs en bl).getLsbD 3 = bl
      ∧ (encodeFrame n rs en bl).getLsbD 1 = false
      ∧ encodeFrame n rs true bl ^^^ 0x04#8 = encodeFrame n rs false bl)
  ∧ (List.finRange 16).map (fun n => encodeFrame (BitVec.ofFin n) false false)
      = [0x08#8, 0x18#8, 0x28#8, 0x38#8, 0x48#8, 0x58#8, 0x68#8, 0x78#8,
         0x88#8, 0x98#8, 0xA8#8, 0xB8#8, 0xC8#8, 0xD8#8, 0xE8#8, 0xF8#8]
  ∧ (List.finRange 16).map (fun n => encodeFrame (BitVec.ofFin n) false true)
      = [0x0C#8, 0x1C#8, 0x2C#8, 0x3C#8, 0x4C#8, 0x5C#8, 0x6C#8, 0x7C#8,
         0x8C#8, 0x9C#8, 0xAC#8, 0xBC#8, 0xCC#8, 0xDC#8, 0xEC#8, 0xFC#8]
  ∧ (List.finRange 16).map (fun n => encodeFrame (BitVec.ofFin n) true false)
      = [0x09#8, 0x19#8, 0x29#8, 0x39#8, 0x49#8, 0x59#8, 0x69#8, 0x79#8,
         0x89#8, 0x99#8, 0xA9#8, 0xB9#8, 0xC9#8, 0xD9#8, 0xE9#8, 0xF9#8]
  ∧ (List.finRange 16).map (fun n => encodeFrame (BitVec.ofFin n) true true)
      = [0x0D#8, 0x1D#8, 0x2D#8, 0x3D#8, 0x4D#8, 0x5D#8, 0x6D#8, 0x7D#8,
         0x8D#8, 0x9D#8, 0xAD#8, 0xBD#8, 0xCD#8, 0xDD#8, 0xED#8, 0xFD#8]

/-- R102: `x ^ EN_MASK` flips bit 2 and no other bit; twice gives x back; it is `x - 4` or `x + 4`. -/
def Obligations.EnableMaskFlipsBitTwo : Prop :=
  ∀ x : Byte,
    enableLow (enableLow x) = x
      ∧ (∀ i, (enableLow x).getLsbD i = if i = 2 then !x.getLsbD 2 else x.getLsbD i)
      ∧ (x.getLsbD 2 = true → (enableLow x).toNat = x.toNat - 4 ∧ 4 ≤ x.toNat)
      ∧ (x.getLsbD 2 = false → (enableLow x).toNat = x.toNat + 4)

/-- R122: PULSE writes `base`, then `base ^ 0x04`; a failed first write is the only call; a failed second write is the
last; no state register is written. -/
def Obligations.PulseWritesTwice : Prop :=
  ∀ (base v w : Byte) (e : BusErrInfo) (rest : List Draw) (s : State),
    s.Idle → base.getLsbD 2 = true →
      (s.draws = .ok v :: .ok w :: rest →
        exec (.pulse base) s
          = .next { s.after [.write base, .write (base ^^^ 0x04#8)] rest (.ok none) with
                    port := some (base ^^^ 0x04#8) })
      ∧ (s.draws = .err e :: rest →
        exec (.pulse base) s
          = .next { s.after [.writeErr base] rest (.error (.busError e)) with port := none })
      ∧ (s.draws = .ok v :: .err e :: rest →
        exec (.pulse base) s
          = .next { s.after [.write base, .writeErr (base ^^^ 0x04#8)] rest (.error (.busError e)) with
                    port := none })

/-- R124: READ_BUSY is `W(FE) R=r1 W(FA) W(FE) R=r2`, answers bit 7 of `(r1[7:4] << 4) | r2[7:4]`, and leaves the lines at
0xFE; no state register is written. -/
def Obligations.ReadBusyAnswersTheFlag : Prop :=
  ∀ (q : StatusRead) (rest : List Draw) (s : State), s.Idle → s.draws = q.draws ++ rest →
    exec .readBusy s
      = .next { s.after [.write 0xFE#8, .read q.r1, .write 0xFA#8, .write 0xFE#8, .read q.r2] rest
                  (.ok (some (if (((q.r1.extractLsb' 4 4).setWidth 8 <<< 4)
                                  ||| (q.r2.extractLsb' 4 4).setWidth 8).getLsbD 7
                              then 1#8 else 0#8))) with
                port := some 0xFE#8 }

/-- R126: where a failed READ_BUSY stops, call by call, with no flag in the answer; after a failed write the lines are
unknown, after a failed read they stay at 0xFE (R52; R126 is "derived: from rule R124"). -/
def Obligations.ReadBusyStopsAtItsFailedCall : Prop :=
  ∀ (q : StatusRead) (e : BusErrInfo) (rest : List Draw) (s : State), s.Idle →
    (s.draws = .err e :: rest →
      exec .readBusy s = .next { s.after [.writeErr 0xFE#8] rest (.error (.busError e)) with port := none })
    ∧ (s.draws = .ok q.a :: .err e :: rest →
      exec .readBusy s
        = .next { s.after [.write 0xFE#8, .readErr] rest (.error (.busError e)) with port := some 0xFE#8 })
    ∧ (s.draws = .ok q.a :: .ok q.r1 :: .err e :: rest →
      exec .readBusy s
        = .next { s.after [.write 0xFE#8, .read q.r1, .writeErr 0xFA#8] rest (.error (.busError e)) with
                  port := none })
    ∧ (s.draws = .ok q.a :: .ok q.r1 :: .ok q.b :: .err e :: rest →
      exec .readBusy s
        = .next { s.after [.write 0xFE#8, .read q.r1, .write 0xFA#8, .writeErr 0xFE#8] rest
                    (.error (.busError e)) with port := none })
    ∧ (s.draws = .ok q.a :: .ok q.r1 :: .ok q.b :: .ok q.c :: .err e :: rest →
      exec .readBusy s
        = .next { s.after [.write 0xFE#8, .read q.r1, .write 0xFA#8, .write 0xFE#8, .readErr] rest
                    (.error (.busError e)) with port := some 0xFE#8 })

/-- R85, R93: from read bytes r1 and r2, `busy = ((r1[7:4] << 4) | r2[7:4])[7]`, which is `H[3]`, bit 7 of r1, whatever r2
is. -/
def Obligations.BusyIsBitSevenOfTheFirstRead : Prop :=
  ∀ r1 r2 : Byte,
    busyFlag (some (hiNibble r1)) (some (hiNibble r2))
        = some ((((r1.extractLsb' 4 4).setWidth 8 <<< 4) ||| (r2.extractLsb' 4 4).setWidth 8 : Byte).getLsbD 7)
      ∧ busyFlag (some (hiNibble r1)) (some (hiNibble r2)) = some (r1.getLsbD 7)
      ∧ busyFlag (some (hiNibble r1)) (some (hiNibble r2)) = some ((hiNibble r1).getLsbD 3)

/-- R52, R80, R83: FRAME and the two probe bytes are one BusWrite each: on `Ok` the event is `W(v)` and the lines take v,
on `Err(e)` the event is `W(v)=err`, the lines are unknown and BusError(e) is answered. That these rows run on their own is
the model's choice (log 13). -/
def Obligations.TransportBytesAreWritten : Prop :=
  ∀ (n : Nibble) (bl en rs : Bool) (v : Byte) (e : BusErrInfo) (rest : List Draw) (s : State), s.Idle →
    ∀ (i : Instr) (b : Byte),
      (i = .frame n bl en rs ∧ b = packFrame n bl en false rs) ∨ (i = .busyProbeHi ∧ b = 0xFE#8)
        ∨ (i = .busyProbeLo ∧ b = 0xFA#8) →
      (s.draws = .ok v :: rest →
        exec i s = .next { s with draws := rest, trace := s.trace ++ [.write b], port := some b })
      ∧ (s.draws = .err e :: rest →
        exec i s = .next { s.after [.writeErr b] rest (.error (.busError e)) with port := none })

/-- R84, R85, R93: READ_BYTE takes bits 7..4 of the byte, as H when none is held and as L after that, and changes no line;
STATUS takes bit 7 as the busy flag and discards the rest. That these rows run on their own is the model's choice
(log 14). -/
def Obligations.ReadBytesAndStatusAreTaken : Prop :=
  ∀ (h x : Nibble) (b : Bool) (a : BitVec 7) (s : State), s.Idle →
    (s.H = none →
      exec (.readByte h x) s
        = .next { s with trace := s.trace ++ [.read ((h.setWidth 8 <<< 4) ||| x.setWidth 8)], H := some h })
    ∧ (s.H ≠ none →
      exec (.readByte h x) s
        = .next { s with trace := s.trace ++ [.read ((h.setWidth 8 <<< 4) ||| x.setWidth 8)], L := some h })
    ∧ exec (.status b a) s = .next { s with busy := some b }

/-- R97, R238: RESPONSE presents the response, for the host to take; that this row runs on its own is the model's choice
(log 16). -/
def Obligations.ResponseIsPresented : Prop :=
  ∀ (r : Response) (s : State), s.Idle → exec (.response r) s = .next (s.after [] s.draws r)

/-! ## Nibble protocol -/

/-- R91, R67: a byte is sent as four writes, the frames of its high nibble and then those of its low nibble ("derived: from
rule R80, rule R90 and 40_codec.md rule R122"). -/
def Obligations.ByteTravelsAsFourFrames : Prop :=
  ∀ (b : Byte) (rs : Bool),
    sendByteCode b rs
      = [.write ((b &&& 0xF0#8) ||| 0x0C#8 ||| (BitVec.ofBool rs).setWidth 8),
         .write ((b &&& 0xF0#8) ||| 0x08#8 ||| (BitVec.ofBool rs).setWidth 8),
         .write (((b &&& 0x0F#8) <<< 4) ||| 0x0C#8 ||| (BitVec.ofBool rs).setWidth 8),
         .write (((b &&& 0x0F#8) <<< 4) ||| 0x08#8 ||| (BitVec.ofBool rs).setWidth 8)]

/-- R151: SEND_HALF_COMMAND writes the two frames of the high nibble with RS = 0, polls nothing, ignores the low nibble,
and stops at a failed write; no state register is written. -/
def Obligations.HalfCommandSendsTheHighNibble : Prop :=
  ∀ (cmd v w : Byte) (e : BusErrInfo) (rest : List Draw) (s : State), s.Idle →
    (s.draws = .ok v :: .ok w :: rest →
      exec (.sendHalfCommand cmd) s
        = .next (s.after [.write ((cmd &&& 0xF0#8) ||| 0x0C#8), .write ((cmd &&& 0xF0#8) ||| 0x08#8)] rest (.ok none)))
    ∧ (s.draws = .err e :: rest →
      exec (.sendHalfCommand cmd) s
        = .next (s.after [.writeErr ((cmd &&& 0xF0#8) ||| 0x0C#8)] rest (.error (.busError e))))
    ∧ (s.draws = .ok v :: .err e :: rest →
      exec (.sendHalfCommand cmd) s
        = .next (s.after [.write ((cmd &&& 0xF0#8) ||| 0x0C#8), .writeErr ((cmd &&& 0xF0#8) ||| 0x08#8)] rest
            (.error (.busError e))))

/-- R152, R153: SEND_COMMAND polls until a clear answer, sleeping after each busy one, and then writes the four frames with
RS = 0; a failed call ends it there; no state register is written in either case. -/
def Obligations.SendCommandPollsThenSends : Prop :=
  ∀ (cmd : Byte) (c : CommandRun) (rest : List Draw) (s : State), s.Idle → c.clears →
    (s.draws = c.draws ++ rest →
      exec (.sendCommand cmd) s = .next (s.after (c.events cmd) rest (.ok none)))
    ∧ ∀ (n : Nat) (e : BusErrInfo), n < c.draws.length → s.draws = c.draws.take n ++ .err e :: rest →
      ∃ t, exec (.sendCommand cmd) s = .next t ∧ StoppedAt s t (c.events cmd) n e rest
        ∧ t = { t with phase := s.phase, cursor := s.cursor, lbBuf := s.lbBuf, lbOff := s.lbOff }

/-- R153, R171, R269: against an environment that from some poll on only ever says busy, SEND_COMMAND, CLEAR, SET_CURSOR,
INIT in each of its steps 2 to 5, and FLUSH and a flushing APPEND in each of their polls never answer, send no further frame
and write no further register, however many busy answers come, in one step or in later steps. (No bound is the spec's
decision D20; that FLUSH begins on its own is the model's choice, log 17.) -/
def Obligations.BusyPollNeverGivesUp : Prop :=
  ∀ (cmd : Byte) (pos : Int) (r : InitRun) (f : FlushRun) (offset : Nat) (bytes valid text tail : List Byte) (s : State),
    s.Idle → s.resetLine = false →
    (∀ i : Instr, i = .sendCommand cmd ∨ i = .clear ∨ i = .setCursor pos ∧ 0 ≤ pos ∧ pos ≤ 31 →
      PollsForEver i s s ⟨[], [], none, none⟩)
    ∧ (r.clears → ∀ p ∈ r.polls, PollsForEver .init s s p)
    ∧ (s.lbOff ≤ 33 → s.validIs valid → valid = text ++ 0x0A#8 :: tail → 0x0A#8 ∉ text → f.fits text.length →
        ∀ p ∈ f.polls text, PollsForEver .flush s s p)
    ∧ (offset = s.lbOff → offset + bytes.length ≤ 33 → s.validIs valid → valid ++ bytes = text ++ 0x0A#8 :: tail →
        0x0A#8 ∉ text → f.fits text.length →
        ∃ m, StoredFrom s.lbBuf m offset bytes
          ∧ ∀ p ∈ f.polls text,
              PollsForEver (.append offset bytes) s
                { s with lbBuf := m, lbOff := offset + bytes.length } p)

/-- R154: SEND_DATA writes the four frames with RS = 1 and nothing else; a failed write ends it there. -/
def Obligations.SendDataWritesFourFrames : Prop :=
  ∀ (b : Byte) (vs : List Byte) (rest : List Draw) (s : State), s.Idle → vs.length = 4 →
    (s.draws = vs.map .ok ++ rest →
      exec (.sendData b) s = .next (s.after (dataEvents b) rest (.ok none)))
    ∧ ∀ (n : Nat) (e : BusErrInfo), n < 4 → s.draws = (vs.map .ok).take n ++ .err e :: rest →
      ∃ t, exec (.sendData b) s = .next t ∧ StoppedAt s t (dataEvents b) n e rest
        ∧ t = { t with phase := s.phase, cursor := s.cursor, lbBuf := s.lbBuf, lbOff := s.lbOff }

/-- R155: in every environment, SEND_DATA, PRINT_CHAR and SEND_HALF_COMMAND make no read and no sleep, and SEND_COMMAND
writes its first frame only straight after a status read whose first byte has bit 7 clear. -/
def Obligations.CommandsPollAndDataDoesNot : Prop :=
  ∀ (b : Byte) (s : State), s.Idle →
    (∀ (i : Instr) (t : State), i = .sendData b ∨ i = .printChar b ∨ i = .sendHalfCommand b → exec i s = .next t →
      ∃ evs, t.trace = s.trace ++ evs ∧ ∀ e ∈ evs, e.written.isSome = true)
    ∧ (∀ t : State, exec (.sendCommand b) s = .next t →
      ∃ evs, t.trace = s.trace ++ evs
        ∧ ∀ before e behind, evs = before ++ e :: behind → e.isFrame = true → (∀ x ∈ before, x.isFrame = false) →
          ∃ earlier r1 r2,
            before = earlier ++ [.write 0xFE#8, .read r1, .write 0xFA#8, .write 0xFE#8, .read r2]
              ∧ r1.getLsbD 7 = false)

/-- R87, R88, R89: the LCD command bytes are sent with RS = 0, 0x20 as one nibble without a poll and the others as full
commands, and LCD.DATA with RS = 1; none of them writes a state register. That these rows run on their own, and
LCD.SET_DDRAM_ADDR with all 128 addresses, is the model's choice (log 15). -/
def Obligations.LcdBytesAreSent : Prop :=
  ∀ (c : CommandRun) (v w : Byte) (vs : List Byte) (a : BitVec 7) (d : Byte) (rest : List Draw) (s : State),
    s.Idle →
      (s.draws = .ok v :: .ok w :: rest →
        exec .lcdFunctionSet4BitHalf s = .next (s.afterItem [.write 0x2C#8, .write 0x28#8] rest))
      ∧ (c.clears → s.draws = c.draws ++ rest →
        exec .lcdFunctionSet2Line s = .next (s.afterItem (c.events 0x28#8) rest)
        ∧ exec .lcdDisplayOnCursorBlink s = .next (s.afterItem (c.events 0x0F#8) rest)
        ∧ exec .lcdClear s = .next (s.afterItem (c.events 0x01#8) rest)
        ∧ exec (.lcdSetDdramAddr a) s = .next (s.afterItem (c.events (0x80#8 ||| a.setWidth 8)) rest))
      ∧ (vs.length = 4 → s.draws = vs.map .ok ++ rest →
        exec (.lcdData d) s = .next (s.afterItem (dataEvents d) rest))

/-! ## Display sequencer -/

/-- R171, R172: INIT from any idle state, in any phase: when no call fails it makes the calls of its five steps, ends in
Ready with `cursor` = 0 and answers Ok; when its call number n fails, the phase is the one reached by the last completed
step, `cursor` is what the completed steps wrote, and nothing after the failed call happens. -/
def Obligations.InitRunsItsFiveSteps : Prop :=
  ∀ (r : InitRun) (rest : List Draw) (s : State), s.Idle → r.clears →
    (s.draws = r.draws ++ rest →
      exec .init s = .next { s.after r.events rest (.ok none) with phase := .ready, cursor := some 0 })
    ∧ ∀ (n : Nat) (e : BusErrInfo), n < r.draws.length → s.draws = r.draws.take n ++ .err e :: rest →
      ∃ t, exec .init s = .next t ∧ StoppedAt s t r.events n e rest
        ∧ t.phase =
            (if n < 2 then .uninitialized
             else if n < 2 + r.functionSet.draws.length then .functionSetPending
             else if n < 2 + r.functionSet.draws.length + r.displayOn.draws.length then .twoLineModePending
             else if n < 2 + r.functionSet.draws.length + r.displayOn.draws.length + r.clear.draws.length then
               .displayOnPending
             else .cleared)
        ∧ t.cursor =
            (if n < 2 + r.functionSet.draws.length + r.displayOn.draws.length + r.clear.draws.length then s.cursor
             else some 0)
        ∧ t.lbBuf = s.lbBuf ∧ t.lbOff = s.lbOff

/-- R263: after a successful boot from reset `phase` = Ready, `cursor` = 0, `lb_off` = 0, the lines are 0x08, and the trace
holds 38 calls plus five calls and one sleep for every busy answer. -/
def Obligations.BootLeavesReady : Prop :=
  ∀ (r : InitRun) (rest : List Draw), r.clears →
    ∃ t, exec .init { State.reset with draws := r.draws ++ rest } = .next t
      ∧ t.phase = .ready ∧ t.cursor = some 0 ∧ t.lbOff = 0 ∧ t.port = some 0x08#8 ∧ t.response = some (.ok none)
      ∧ t.trace = r.events
      ∧ (t.trace.filter Event.isCall).length
          = 38 + 5 * (r.functionSet.busy.length + r.displayOn.busy.length + r.clear.busy.length + r.home.busy.length)
      ∧ (t.trace.filter (fun e => !e.isCall))
          = List.replicate
              (r.functionSet.busy.length + r.displayOn.busy.length + r.clear.busy.length + r.home.busy.length) (.sleep 10)

/-- R173: CLEAR sends 0x01 as a command and then writes `cursor` = 0; on a failed call `cursor` is unchanged; `phase` is
never written. -/
def Obligations.ClearZeroesTheCursor : Prop :=
  ∀ (c : CommandRun) (rest : List Draw) (s : State), s.Idle → c.clears →
    (s.draws = c.draws ++ rest →
      exec .clear s = .next { s.after (c.events 0x01#8) rest (.ok none) with cursor := some 0 })
    ∧ ∀ (n : Nat) (e : BusErrInfo), n < c.draws.length → s.draws = c.draws.take n ++ .err e :: rest →
      ∃ t, exec .clear s = .next t ∧ StoppedAt s t (c.events 0x01#8) n e rest
        ∧ t = { t with phase := s.phase, cursor := s.cursor, lbBuf := s.lbBuf, lbOff := s.lbOff }

/-- R174: SET_CURSOR inside 0..31 sends `0x80 | addr`, addr = pos on line 1 and pos - 16 + 0x40 on line 2, and then writes
`cursor` = pos; on a failed call `cursor` is unchanged; outside 0..31 it answers InvalidArgument with no transport call and
no state change, whatever the environment. -/
def Obligations.SetCursorAddressesTheCell : Prop :=
  ∀ (pos : Int) (c : CommandRun) (rest : List Draw) (s : State), s.Idle →
    (pos < 0 ∨ 31 < pos → exec (.setCursor pos) s = .next (s.after [] s.draws (.error .invalidArgument)))
    ∧ (0 ≤ pos → pos ≤ 31 → c.clears →
      let cmd : Byte := 0x80#8 ||| BitVec.ofInt 8 (if pos ≥ 16 then pos - 16 + 0x40 else pos)
      (s.draws = c.draws ++ rest →
        exec (.setCursor pos) s = .next { s.after (c.events cmd) rest (.ok none) with cursor := some pos.toNat })
      ∧ ∀ (n : Nat) (e : BusErrInfo), n < c.draws.length → s.draws = c.draws.take n ++ .err e :: rest →
        ∃ t, exec (.setCursor pos) s = .next t ∧ StoppedAt s t (c.events cmd) n e rest
          ∧ t = { t with phase := s.phase, cursor := s.cursor, lbBuf := s.lbBuf, lbOff := s.lbOff })

/-- R59, R88, R92: the address translation: line 1 at 0x00, line 2 at 0x40, injective on 0..31, at most 0x4F, and the
command byte is `0x80 + ddram_addr(pos)`. -/
def Obligations.PositionsMapToDdram : Prop :=
  ∀ p : Nat, p < 32 →
    (p < 16 → ddramAddr p = p) ∧ (16 ≤ p → ddramAddr p = p - 16 + 0x40) ∧ ddramAddr p ≤ 0x4F
      ∧ cursorCommand p = 0x80#8 ||| BitVec.ofNat 8 (ddramAddr p) ∧ (cursorCommand p).toNat = 0x80 + ddramAddr p
      ∧ ∀ q : Nat, q < 32 → ddramAddr p = ddramAddr q → p = q

/-- R176: PRINT_CHAR writes the four data frames of the byte and nothing else: `cursor` does not move; a failed write ends
it there. -/
def Obligations.PrintCharSendsTheByte : Prop :=
  ∀ (b : Byte) (vs : List Byte) (rest : List Draw) (s : State), s.Idle → vs.length = 4 →
    (s.draws = vs.map .ok ++ rest →
      exec (.printChar b) s = .next (s.after (dataEvents b) rest (.ok none)))
    ∧ ∀ (n : Nat) (e : BusErrInfo), n < 4 → s.draws = (vs.map .ok).take n ++ .err e :: rest →
      ∃ t, exec (.printChar b) s = .next t ∧ StoppedAt s t (dataEvents b) n e rest
        ∧ t = { t with phase := s.phase, cursor := s.cursor, lbBuf := s.lbBuf, lbOff := s.lbOff }

/-- R177: no operation but INIT depends on `phase`, and INIT's result does not depend on it either: with another phase
before, every operation does the same, and the phase it leaves differs only where nothing wrote it. -/
def Obligations.NoOperationReadsThePhase : Prop :=
  ∀ (i : Instr) (p : Phase) (s : State), s.Idle →
    (i ≠ .init →
      match exec i s with
      | .next t => exec i { s with phase := p } = .next { t with phase := p }
      | .fault f => exec i { s with phase := p } = .fault f
      | .refused r => exec i { s with phase := p } = .refused r)
    ∧ exec .init { s with phase := p } = exec .init s

/-- R22: no operation reads `cursor`: with another cursor before, every operation does the same, and the cursor it leaves
differs only where nothing wrote it. -/
def Obligations.NoOperationReadsTheCursor : Prop :=
  ∀ (i : Instr) (c : Option Nat) (s : State), s.Idle →
    match exec i s with
    | .next t =>
        exec i { s with cursor := c } = .next t
          ∨ (t.cursor = s.cursor ∧ exec i { s with cursor := c } = .next { t with cursor := c })
    | .fault f => exec i { s with cursor := c } = .fault f
    | .refused r => exec i { s with cursor := c } = .refused r

/-- R21, R22, R30: who writes the state registers: `phase` INIT only; `cursor` CLEAR, SET_CURSOR and the operations that
run them; the line buffer APPEND and FLUSH. -/
def Obligations.RegistersHaveTheirWriters : Prop :=
  ∀ (i : Instr) (s t : State), s.Idle → exec i s = .next t →
    (i ≠ .init → t.phase = s.phase)
    ∧ (i ≠ .init → i ≠ .clear → (∀ pos, i ≠ .setCursor pos) → (∀ o bs, i ≠ .append o bs) → i ≠ .flush →
        t.cursor = s.cursor)
    ∧ ((∀ o bs, i ≠ .append o bs) → i ≠ .flush → t.lbOff = s.lbOff)
    ∧ ((∀ o bs, i ≠ .append o bs) → ∀ a, t.lbBuf.read a = s.lbBuf.read a)
    ∧ t.requests = s.requests ∧ t.lane = s.lane ∧ t.drawCount = s.drawCount ∧ t.resetLine = s.resetLine
    ∧ t.rspReady = s.rspReady

/-! ## Line buffer -/

/-- R200, R202: an APPEND that fits and leaves no NEWLINE in the valid part stores its bytes from `offset` on, advances
`lb_off`, answers the count, makes no transport call, and leaves every other byte of the buffer as it was. -/
def Obligations.AppendWithoutNewlineStores : Prop :=
  ∀ (offset : Nat) (bytes valid : List Byte) (s : State),
    s.Idle → offset = s.lbOff → offset + bytes.length ≤ 33 → s.validIs valid →
    0x0A#8 ∉ valid → 0x0A#8 ∉ bytes →
    ∃ m, exec (.append offset bytes) s
        = .next { s.after [] s.draws (.ok (some (BitVec.ofNat 8 bytes.length))) with
                  lbBuf := m, lbOff := offset + bytes.length }
      ∧ StoredFrom s.lbBuf m offset bytes

/-- R200, R223: an APPEND that does not fit answers MessageTooLong; nothing is stored, no transport call is made, and
`lb_off` becomes 0. The sum is compared without wrap (R104). -/
def Obligations.OverflowEmptiesTheBuffer : Prop :=
  ∀ (offset : Nat) (bytes : List Byte) (s : State), s.Idle → offset = s.lbOff → 33 < offset + bytes.length →
    exec (.append offset bytes) s = .next { s.after [] s.draws (.error .messageTooLong) with lbOff := 0 }

/-- R201, R239 (c): an APPEND whose offset is not `lb_off` is refused. -/
def Obligations.WrongOffsetIsRefused : Prop :=
  ∀ (offset : Nat) (bytes : List Byte) (s : State), s.Idle → offset ≠ s.lbOff →
    exec (.append offset bytes) s = .refused (.offsetMismatch offset s.lbOff)

/-- R200, R202, R203, R204, R205: an APPEND that leaves a NEWLINE in the valid part flushes the text before the first
NEWLINE: clear, cursor to 0, the characters, with SET_CURSOR(16) before the 17th; then the buffer is empty, `cursor` is 16
if there was a 17th character and 0 otherwise, and the count of the appended bytes is answered. -/
def Obligations.AppendFlushesTheMessage : Prop :=
  ∀ (offset : Nat) (bytes valid text tail : List Byte) (f : FlushRun) (rest : List Draw) (s : State),
    s.Idle → offset = s.lbOff → offset + bytes.length ≤ 33 → s.validIs valid →
    valid ++ bytes = text ++ 0x0A#8 :: tail → 0x0A#8 ∉ text → f.fits text.length →
    s.draws = f.draws text.length ++ rest →
    ∃ m, exec (.append offset bytes) s
        = .next { s.after (f.events text) rest (.ok (some (BitVec.ofNat 8 bytes.length))) with
                  lbBuf := m, lbOff := 0, cursor := some (if 16 < text.length then 16 else 0) }
      ∧ StoredFrom s.lbBuf m offset bytes

/-- R206, R200: when the flush of an APPEND fails at its call number n, BusError is answered, nothing after the failed
call happens, and the message stays in the buffer with `lb_off` advanced; `cursor` is what the completed CLEAR and
SET_CURSOR calls wrote. -/
def Obligations.FailedFlushKeepsTheMessage : Prop :=
  ∀ (offset n : Nat) (bytes valid text tail : List Byte) (f : FlushRun) (e : BusErrInfo) (rest : List Draw) (s : State),
    s.Idle → offset = s.lbOff → offset + bytes.length ≤ 33 → s.validIs valid →
    valid ++ bytes = text ++ 0x0A#8 :: tail → 0x0A#8 ∉ text → f.fits text.length →
    n < (f.draws text.length).length → s.draws = (f.draws text.length).take n ++ .err e :: rest →
    ∃ t, exec (.append offset bytes) s = .next t ∧ StoppedAt s t (f.events text) n e rest
      ∧ t.lbOff = offset + bytes.length ∧ StoredFrom s.lbBuf t.lbBuf offset bytes ∧ t.phase = s.phase
      ∧ t.cursor =
          (if n < f.clear.draws.length then s.cursor
           else if 16 < text.length ∧ f.clear.draws.length + f.home.draws.length + 64 + f.wrap.draws.length ≤ n then
             some 16
           else some 0)

/-- R203: FLUSH runs the same on its own, and has no meaning while the valid part holds no NEWLINE; that it runs on its own,
without a response, and the refusal are the model's choice (log 17). -/
def Obligations.FlushPrintsTheMessage : Prop :=
  ∀ (valid text tail : List Byte) (f : FlushRun) (rest : List Draw) (s : State),
    s.Idle → s.lbOff ≤ 33 → s.validIs valid →
    (valid = text ++ 0x0A#8 :: tail → 0x0A#8 ∉ text → f.fits text.length → s.draws = f.draws text.length ++ rest →
      exec .flush s
        = .next { s.afterItem (f.events text) rest with
                  lbOff := 0, cursor := some (if 16 < text.length then 16 else 0) })
    ∧ (0x0A#8 ∉ valid → exec .flush s = .refused .flushWithoutNewline)

/-- R275: after a failed flush of a message the next APPEND that fits prints the same message again, and the bytes it
appended are dropped with it. -/
def Obligations.FailedFlushIsRepeated : Prop :=
  ∀ (bytes valid text tail : List Byte) (f : FlushRun) (rest : List Draw) (s : State),
    s.Idle → s.lbOff + bytes.length ≤ 33 → s.validIs valid →
    valid = text ++ 0x0A#8 :: tail → 0x0A#8 ∉ text → f.fits text.length → s.draws = f.draws text.length ++ rest →
    ∃ t, exec (.append s.lbOff bytes) s = .next t ∧ t.trace = s.trace ++ f.events text ∧ t.lbOff = 0
      ∧ t.response = some (.ok (some (BitVec.ofNat 8 bytes.length)))

/-! ## Errors, ports, reset -/

/-- R227, R228: in every environment an operation stops at its first failure: no event after a failed call, BusError is
answered exactly when a call failed, and then no operation is in flight. (RESPONSE presents a response that is not of its own
making, log 16.) -/
def Obligations.FirstFailureEndsTheOperation : Prop :=
  ∀ (i : Instr) (s t : State), s.Idle → (∀ r, i ≠ .response r) →
    exec i s = .next t →
    ∃ evs, t.trace = s.trace ++ evs
      ∧ (∀ e ∈ evs.dropLast, e.failed = false)
      ∧ ((∃ x, t.response = some (.error (.busError x))) ↔ ∃ e, evs.getLast? = some e ∧ e.failed = true)
      ∧ ((∃ x, t.response = some (.error (.busError x))) → t.position = [])

/-- R225: which operation can answer which error, in every environment. (RESPONSE presents a response that is not of its own
making, log 16.) -/
def Obligations.ErrorsHaveTheirOperations : Prop :=
  ∀ (i : Instr) (s t : State), s.Idle → (∀ r, i ≠ .response r) →
    exec i s = .next t →
    (t.response = some (.error .invalidArgument) → ∃ pos, i = .setCursor pos ∧ (pos < 0 ∨ 31 < pos))
    ∧ (t.response = some (.error .messageTooLong) → ∃ o bs, i = .append o bs ∧ 33 < o + bs.length)
    ∧ (∀ n rs en bl, i = .encode n rs en bl → ∀ e, t.response ≠ some (.error e))

/-- R99: in every environment the sequenced operations write only the bytes `nnnn1e0s` and the two probes; a direct PULSE
writes its base and then the base with bit 2 clear. -/
def Obligations.SequencedWritesAreLegalFrames : Prop :=
  ∀ (i : Instr) (s t : State), s.Idle → exec i s = .next t →
    ∃ evs, t.trace = s.trace ++ evs
      ∧ ((∀ b, i ≠ .pulse b) → (∀ n bl en rs, i ≠ .frame n bl en rs) →
          ∀ e ∈ evs, ∀ v, e.written = some v → sequencedByte v = true)
      ∧ (∀ b, i = .pulse b → evs.filterMap Event.written <+: [b, b ^^^ 0x04#8])

/-- R238 (a), R239 (a), R235: a request has no meaning while an operation is in flight, and none while its response has not
been taken: the block is not idle then. -/
def Obligations.InFlightRequestsAreRefused : Prop :=
  ∀ (i : Instr) (s : State), s.position ≠ [] ∨ s.response ≠ none → exec i s = .refused .requestInFlight

/-- R238 (a): a request of an idle block presents no response before it ends and one when it ends, whatever the environment;
the block is not idle then, and no instruction runs: it is idle again after the step in which the host takes the response,
which changes nothing else, and waits while the host is not ready. (That taking is a step, and the host's readiness a level,
is the model's choice, log 8.) -/
def Obligations.RequestsAreAnsweredAndTaken : Prop :=
  ∀ (i : Instr) (s t : State), s.Idle → i.format = .req → s.resetLine = false → exec i s = .next t →
    (t.position ≠ [] → t.response = none)
    ∧ (t.position = [] →
        t.response.isSome = true ∧ (∀ j, exec j t = .refused .requestInFlight)
          ∧ (s.rspReady = true →
              step t = .next { t with response := none } ∧ State.Idle { t with response := none })
          ∧ (s.rspReady = false → step t = .next t))

/-- R52, R53, R72: every transport call takes one answer of the environment and makes one event, in order: the k-th answer is
that of the k-th call, which failed exactly when the answer is an error, and a read carries the byte of its answer.
READ_BYTE, whose byte is the answer, takes none (log 14). -/
def Obligations.EachCallTakesOneAnswer : Prop :=
  ∀ (i : Instr) (s t : State), s.Idle → (∀ h x, i ≠ .readByte h x) → exec i s = .next t →
    ∃ evs used, t.trace = s.trace ++ evs ∧ s.draws = used ++ t.draws
      ∧ List.Forall₂ (fun e d => e.answeredBy d = true) (evs.filter Event.isCall) used

/-- R27, decision D26, log 18: an operation that has used up its answers waits at its call, and goes on from there in the next step when
more answers come: running in one step or in several makes no difference. -/
def Obligations.GranularityDoesNotMatter : Prop :=
  ∀ (i : Instr) (first more : List Draw) (s t : State), s.Idle → s.resetLine = false →
    exec i { s with draws := first } = .next t →
      (t.position = [] → exec i { s with draws := first ++ more } = .next { t with draws := t.draws ++ more })
      ∧ (t.position ≠ [] → t.draws = [] ∧
          (more ≠ [] → exec i { s with draws := first ++ more } = step { t with draws := more }))

/-- R283: PULSE, READ_BUSY, SEND_HALF_COMMAND, SEND_DATA and PRINT_CHAR always end, in every environment that answers each
call, after at most 2, 5, 2, 4 and 4 transport calls. -/
def Obligations.BoundedOperationsEnd : Prop :=
  ∀ (i : Instr) (bound : Nat) (s : State), s.Idle →
    ((∃ b : Byte, b.getLsbD 2 = true ∧ i = .pulse b) ∧ bound = 2) ∨ (i = .readBusy ∧ bound = 5)
      ∨ ((∃ b, i = .sendHalfCommand b) ∧ bound = 2) ∨ ((∃ b, i = .sendData b) ∧ bound = 4)
      ∨ ((∃ b, i = .printChar b) ∧ bound = 4) →
    bound ≤ s.draws.length →
    ∃ t, exec i s = .next t ∧ t.position = [] ∧ t.response.isSome = true ∧ s.draws.length ≤ t.draws.length + bound

/-- R94, R282: how many transport calls and sleeps every operation makes when nothing fails: its minimum, and five calls
and one sleep of 10 ms for every busy answer. (That FLUSH completes on its own is the model's choice, log 17.) -/
def Obligations.OperationsMakeTheirCalls : Prop :=
  ∀ (c : CommandRun) (r : InitRun) (f : FlushRun) (q : StatusRead) (vs : List Byte) (cmd base : Byte) (n : Nibble)
    (rs en bl : Bool) (pos : Int) (valid text tail : List Byte) (rest : List Draw) (s : State), s.Idle →
    (∃ t, exec (.encode n rs en bl) s = .next t ∧ CallsMade s t 0 0)
    ∧ (vs.length = 2 → s.draws = vs.map .ok ++ rest →
        ∀ i : Instr, i = .pulse base ∧ base.getLsbD 2 = true ∨ i = .sendHalfCommand cmd →
          ∃ t, exec i s = .next t ∧ CallsMade s t 2 0)
    ∧ (s.draws = q.draws ++ rest → ∃ t, exec .readBusy s = .next t ∧ CallsMade s t 5 0)
    ∧ (vs.length = 4 → s.draws = vs.map .ok ++ rest →
        ∀ i : Instr, i = .sendData cmd ∨ i = .printChar cmd → ∃ t, exec i s = .next t ∧ CallsMade s t 4 0)
    ∧ (c.clears → s.draws = c.draws ++ rest → 0 ≤ pos → pos ≤ 31 →
        ∀ i : Instr, i = .sendCommand cmd ∨ i = .clear ∨ i = .setCursor pos →
          ∃ t, exec i s = .next t ∧ CallsMade s t (9 + 5 * c.busy.length) c.busy.length)
    ∧ (r.clears → s.draws = r.draws ++ rest →
        let k := r.functionSet.busy.length + r.displayOn.busy.length + r.clear.busy.length + r.home.busy.length
        ∃ t, exec .init s = .next t ∧ CallsMade s t (38 + 5 * k) k)
    ∧ (s.lbOff ≤ 33 → s.validIs valid → valid = text ++ 0x0A#8 :: tail → 0x0A#8 ∉ text → f.fits text.length →
        s.draws = f.draws text.length ++ rest →
        let k := f.clear.busy.length + f.home.busy.length + (if 16 < text.length then f.wrap.busy.length else 0)
        ∃ t, exec .flush s = .next t
          ∧ CallsMade s t ((if text.length ≤ 16 then 18 else 27) + 4 * text.length + 5 * k) k)

/-- R36: the state right after reset, the values the rule gives (decision D19); an unspecified byte of the buffer is a byte
without a value, the model's choice (log 6). -/
def Obligations.ResetState : Prop :=
  State.reset.phase = .uninitialized ∧ State.reset.cursor = none ∧ State.reset.lbOff = 0
    ∧ (∀ i, State.reset.lbBuf.read i = none) ∧ State.reset.position = [] ∧ State.reset.trace = []
    ∧ State.reset.port = none

/-- R260: while reset is asserted a step puts every state register at its reset value and abandons an operation in flight:
no event, no response, nothing left of it; that the host's readiness, the request stream and the environment's answers stay
is the model's choice (log 10). -/
def Obligations.ResetAbandonsTheOperation : Prop :=
  ∀ s : State, s.resetLine = true →
    step s = .next { State.reset with
                     rspReady := s.rspReady, requests := s.requests, draws := s.draws, drawCount := s.drawCount }

/-- A step: reset if asserted; otherwise an operation in flight goes on with the answers that are there, or with one free
answer; otherwise a response that stands is taken when the host is ready, and the request port is not looked at before;
otherwise the bytes at the request port that decode to `i` run as `i` with those bytes taken; otherwise an idle block with an
empty port stays as it is (R75, R238, R242). Bytes that do not decode are refused: R98's as the rule says,
truncated requests and bytes that are no row by the model's choice (logs 12 and 23); the free answers, the lane and the
host's readiness as a level are the model's too (logs 2, 3 and 8). -/
def Obligations.StepRunsTheDecodedItem : Prop :=
  ∀ s : State, s.resetLine = false →
    (s.Idle →
      (∀ (i : Instr) (rest : List Byte), (s.lane = .req → s.requests ≠ []) → decodeAs s.lane s.requests = .ok (i, rest) →
        step s = exec i { s with requests := rest, lane := .req })
      ∧ (∀ e : DecodeError, (s.lane = .req → s.requests ≠ []) → decodeAs s.lane s.requests = .error e →
        step s = .refused (.undecodable e))
      ∧ (s.lane = .req → s.requests = [] → step s = .next s))
    ∧ (s.position = [] → s.response ≠ none →
      (s.rspReady = true → step s = .next { s with response := none })
      ∧ (s.rspReady = false → step s = .next s))
    ∧ (s.awaiting = true →
      (s.draws ≠ [] → step s = .next (State.run s.draws s))
      ∧ (s.draws = [] →
          step s = .next (State.run [Config.freeDraw s.drawCount] { s with drawCount := s.drawCount + 1 })))

/-! ## Invariant -/

/-- The state after reset is a good one. -/
def Obligations.ResetIsGood : Prop := Inv State.reset

/-- Every step from a good state that answers a next state leads to a good state: memory canonical, 0 <= lb_off <= 33 with
every valid byte stored, cursor none or 0..31, the lines as the trace says, no operation in flight or one that waits at a
transport call with no response standing, no flag tested before it is computed (R22, R27, R28, R30, R33, R238). -/
def Obligations.StepKeepsTheInvariant : Prop :=
  ∀ s t : State, Inv s → step s = .next t → Inv t

/-- From a good state a step never faults: no LB access outside 0..32 and none to a byte that was not stored (R57, R30). -/
def Obligations.GoodStatesNeverFault : Prop :=
  ∀ (s : State) (f : Fault), Inv s → step s ≠ .fault f
end

