-- ==== Sys2Proof/Laws/Memory.lean ====
section
/-! SUPPORT. The laws of the line buffer's memory: a read after a write, what a write leaves alone, and that every memory
operation keeps the canonical form. -/

namespace Sys2Proof.Machine

open Sys2Proof

/-! ## One byte -/

@[simp] theorem Memory.read_nil (a : Nat) : Memory.read [] a = none := rfl

theorem Memory.read_write_same (m : Memory) (a : Nat) (v : Byte) : (m.write a v).read a = some v := by
  induction m with
  | nil => simp [Memory.write, Memory.read]
  | cons c m ih =>
    obtain ⟨b, w⟩ := c
    simp only [Memory.write]
    split
    · simp [Memory.read]
    · split
      · simp [Memory.read]
      · next h => simp [Memory.read, h, ih]

theorem Memory.read_write_other (m : Memory) {a x : Nat} (v : Byte) (h : x ≠ a) :
    (m.write a v).read x = m.read x := by
  induction m with
  | nil => simp [Memory.write, Memory.read, h.symm]
  | cons c m ih =>
    obtain ⟨b, w⟩ := c
    simp only [Memory.write]
    split
    · simp [Memory.read, h.symm]
    · split
      · next hb => subst hb; simp [Memory.read, h.symm]
      · simp [Memory.read, ih]

theorem Memory.read_write (m : Memory) (a x : Nat) (v : Byte) :
    (m.write a v).read x = if x = a then some v else m.read x := by
  split
  · next h => subst h; exact Memory.read_write_same m x v
  · next h => exact Memory.read_write_other m v h

/-! ## The canonical form -/

theorem Memory.above_write {m : Memory} {a x : Nat} (v : Byte) (hm : Memory.above x m = true) (hx : x < a) :
    Memory.above x (m.write a v) = true := by
  induction m generalizing x with
  | nil => simpa [Memory.write, Memory.above] using hx
  | cons c m ih =>
    obtain ⟨b, w⟩ := c
    simp only [Memory.above, Bool.and_eq_true, decide_eq_true_eq] at hm
    simp only [Memory.write]
    split
    · next h => simp [Memory.above, hx, h, hm.2]
    · split
      · next h => subst h; simp [Memory.above, hm.1, hm.2]
      · next h1 h2 => simp [Memory.above, hm.1, ih hm.2 (by omega)]

theorem Memory.all_write {m : Memory} {p : Host.Cell → Bool} {a : Nat} {v : Byte} (hm : m.all p = true)
    (hp : p (a, v) = true) : (m.write a v).all p = true := by
  induction m with
  | nil => simp [Memory.write, hp]
  | cons c m ih =>
    obtain ⟨b, w⟩ := c
    simp only [List.all_cons, Bool.and_eq_true] at hm
    simp only [Memory.write]
    split
    · simp [hp, hm.1, hm.2]
    · split
      · simp [hp, hm.2]
      · simp [hm.1, ih hm.2]

theorem Memory.wf_iff (m : Memory) :
    m.wf = true ↔ m.all (fun c => decide (c.1 < Config.BUF_CAP)) = true
      ∧ ∀ b v r, m = (b, v) :: r → Memory.above b r = true := by
  cases m with
  | nil => simp [Memory.wf]
  | cons c r =>
    obtain ⟨b, v⟩ := c
    simp only [Memory.wf, Bool.and_eq_true]
    constructor
    · rintro ⟨h1, h2⟩
      refine ⟨h2, ?_⟩
      rintro b' v' r' ⟨⟩
      exact h1
    · rintro ⟨h1, h2⟩
      exact ⟨h2 b v r rfl, h1⟩

/-- A write to an address that exists keeps the canonical form. -/
theorem Memory.wf_write {m : Memory} {a : Nat} (v : Byte) (hm : m.wf = true) (ha : a < Config.BUF_CAP) :
    (m.write a v).wf = true := by
  rw [Memory.wf_iff] at hm ⊢
  refine ⟨Memory.all_write hm.1 (by simpa using ha), ?_⟩
  cases m with
  | nil =>
    rintro b w r h
    simp only [Memory.write, List.cons.injEq, Prod.mk.injEq] at h
    simp [← h.2, Memory.above]
  | cons c m =>
    obtain ⟨b, w⟩ := c
    have hb := hm.2 b w m rfl
    rintro b' w' r' h
    simp only [Memory.write] at h
    split at h
    · next hlt =>
      simp only [List.cons.injEq, Prod.mk.injEq] at h
      obtain ⟨⟨rfl, rfl⟩, rfl⟩ := h
      simp [Memory.above, hlt, hb]
    · split at h
      · next he =>
        simp only [List.cons.injEq, Prod.mk.injEq] at h
        obtain ⟨⟨rfl, rfl⟩, rfl⟩ := h
        exact he ▸ hb
      · simp only [List.cons.injEq, Prod.mk.injEq] at h
        obtain ⟨⟨rfl, rfl⟩, rfl⟩ := h
        exact Memory.above_write v hb (by omega)

/-! ## LbWrite and LbRead -/

/-- `LbWrite` inside the buffer. -/
theorem lbWrite_ok (m : Memory) {i : Nat} (v : Byte) (h : i < Config.BUF_CAP) : lbWrite m i v = .ok (m.write i v) := by
  simp [lbWrite, h]

/-- All that an `LbWrite` which succeeds does. -/
theorem lbWrite_cases {m m' : Memory} {i : Nat} {v : Byte} (h : lbWrite m i v = .ok m') :
    i < Config.BUF_CAP ∧ m' = m.write i v := by
  unfold lbWrite at h
  split at h
  · next hi => exact ⟨hi, by cases h; rfl⟩
  · cases h

/-- A store that fits succeeds. -/
theorem lbStore_ok (m : Memory) (i : Nat) (bytes : List Byte) (h : i + bytes.length ≤ Config.BUF_CAP) :
    ∃ m', lbStore m i bytes = .ok m' := by
  induction bytes generalizing m i with
  | nil => exact ⟨m, rfl⟩
  | cons v rest ih =>
    simp only [List.length_cons] at h
    simp only [lbStore, lbWrite_ok m v (show i < Config.BUF_CAP by omega)]
    exact ih (m.write i v) (i + 1) (by omega)

/-- What a store leaves at every address. -/
theorem lbStore_read {m m' : Memory} {i : Nat} {bytes : List Byte} (h : lbStore m i bytes = .ok m') (a : Nat) :
    m'.read a = if i ≤ a ∧ a < i + bytes.length then bytes[a - i]? else m.read a := by
  induction bytes generalizing m i with
  | nil =>
    simp only [lbStore, Except.ok.injEq] at h
    subst h
    simp only [List.length_nil, Nat.add_zero]
    rw [if_neg (by omega)]
  | cons v rest ih =>
    simp only [lbStore] at h
    split at h
    · next m1 h1 =>
      obtain ⟨_, rfl⟩ := lbWrite_cases h1
      rw [ih h, Memory.read_write]
      by_cases hai : a = i
      · subst hai
        rw [if_neg (by omega), if_pos rfl, if_pos (by simp)]
        simp
      · rw [if_neg hai]
        by_cases hlt : i + 1 ≤ a ∧ a < i + 1 + rest.length
        · rw [if_pos hlt, if_pos (by simp only [List.length_cons]; omega)]
          rw [show a - i = (a - (i + 1)) + 1 by omega, List.getElem?_cons_succ]
        · rw [if_neg hlt, if_neg (by simp only [List.length_cons]; omega)]
    · cases h

/-- A store keeps the canonical form. -/
theorem lbStore_wf {m m' : Memory} {i : Nat} {bytes : List Byte} (hm : m.wf = true)
    (h : lbStore m i bytes = .ok m') : m'.wf = true := by
  induction bytes generalizing m i with
  | nil => simp only [lbStore, Except.ok.injEq] at h; exact h ▸ hm
  | cons v rest ih =>
    simp only [lbStore] at h
    split at h
    · next m1 h1 =>
      obtain ⟨hi, rfl⟩ := lbWrite_cases h1
      exact ih (Memory.wf_write v hm hi) h
    · cases h

/-- Reading bytes that are all listed inside the buffer. -/
theorem lbLoad_ok (m : Memory) (i : Nat) (bytes : List Byte) (hcap : i + bytes.length ≤ Config.BUF_CAP)
    (h : ∀ j b, bytes[j]? = some b → m.read (i + j) = some b) : lbLoad m i bytes.length = .ok bytes := by
  induction bytes generalizing i with
  | nil => rfl
  | cons b rest ih =>
    simp only [List.length_cons] at hcap ⊢
    have h0 : m.read i = some b := by simpa using h 0 b rfl
    have hi : i < Config.BUF_CAP := by omega
    have hrest := ih (i + 1) (by omega) (fun j c hc => by
      have := h (j + 1) c (by simpa using hc)
      rwa [show i + (j + 1) = i + 1 + j by omega] at this)
    simp [lbLoad, lbRead, hi, h0, hrest]

/-- All that a load which succeeds says. -/
theorem lbLoad_cases {m : Memory} {i n : Nat} {bytes : List Byte} (h : lbLoad m i n = .ok bytes) :
    bytes.length = n ∧ ∀ j b, bytes[j]? = some b → m.read (i + j) = some b := by
  induction n generalizing i bytes with
  | zero =>
    simp only [lbLoad, Except.ok.injEq] at h
    subst h
    simp
  | succ n ih =>
    simp only [lbLoad] at h
    split at h
    · next v rest h1 h2 =>
      simp only [Except.ok.injEq] at h
      subst h
      obtain ⟨hl, hr⟩ := ih h2
      refine ⟨by simp [hl], ?_⟩
      intro j b hj
      cases j with
      | zero =>
        simp only [List.getElem?_cons_zero, Option.some.injEq] at hj
        subst hj
        unfold lbRead at h1
        split at h1
        · split at h1
          · next hm => cases h1; simpa using hm
          · cases h1
        · cases h1
      | succ j =>
        have := hr j b (by simpa using hj)
        rwa [show i + 1 + j = i + (j + 1) by omega] at this
    · cases h
    · cases h

/-- A load succeeds where every byte it reads has been stored. -/
theorem lbLoad_of_stored (m : Memory) (i n : Nat) (hcap : i + n ≤ Config.BUF_CAP)
    (h : ∀ j, j < n → (m.read (i + j)).isSome = true) : ∃ bytes, lbLoad m i n = .ok bytes := by
  induction n generalizing i with
  | zero => exact ⟨[], rfl⟩
  | succ n ih =>
    obtain ⟨rest, hrest⟩ := ih (i + 1) (by omega) (fun j hj => by
      have := h (j + 1) (by omega)
      rwa [show i + (j + 1) = i + 1 + j by omega] at this)
    obtain ⟨b, hb⟩ := Option.isSome_iff_exists.mp (h 0 (by omega))
    refine ⟨b :: rest, ?_⟩
    simp only [Nat.add_zero] at hb
    simp [lbLoad, lbRead, show i < Config.BUF_CAP by omega, hb, hrest]

/-! ## The newline test -/

/-- Without a NEWLINE there is no index of one (R202). -/
theorem newlineIndex_none {l : List Byte} (h : Config.NEWLINE ∉ l) : newlineIndex l = none := by
  induction l with
  | nil => rfl
  | cons b l ih =>
    simp only [List.mem_cons, not_or] at h
    simp [newlineIndex, Ne.symm h.1, ih h.2]

/-- The first NEWLINE is at the length of the text before it (R203). -/
theorem newlineIndex_of_text {text tail : List Byte} (h : Config.NEWLINE ∉ text) :
    newlineIndex (text ++ Config.NEWLINE :: tail) = some text.length := by
  induction text with
  | nil => simp [newlineIndex]
  | cons b text ih =>
    simp only [List.mem_cons, not_or] at h
    simp [newlineIndex, Ne.symm h.1, ih h.2]

end Sys2Proof.Machine
end

