-- ==== Sys2Proof/Laws/State.lean ====
section
/-! SUPPORT. One lemma per field per named update of the state, each true by rfl, so that no later proof unfolds a record
update. -/

namespace Sys2Proof.Machine

/-! `State.emit` -/

@[simp] theorem State.emit_phase (s : State) (e : Event) : (s.emit e).phase = s.phase := rfl
@[simp] theorem State.emit_cursor (s : State) (e : Event) : (s.emit e).cursor = s.cursor := rfl
@[simp] theorem State.emit_lbBuf (s : State) (e : Event) : (s.emit e).lbBuf = s.lbBuf := rfl
@[simp] theorem State.emit_lbOff (s : State) (e : Event) : (s.emit e).lbOff = s.lbOff := rfl
@[simp] theorem State.emit_H (s : State) (e : Event) : (s.emit e).H = s.H := rfl
@[simp] theorem State.emit_L (s : State) (e : Event) : (s.emit e).L = s.L := rfl
@[simp] theorem State.emit_busy (s : State) (e : Event) : (s.emit e).busy = s.busy := rfl
@[simp] theorem State.emit_position (s : State) (e : Event) : (s.emit e).position = s.position := rfl
@[simp] theorem State.emit_port (s : State) (e : Event) : (s.emit e).port = s.port := rfl
@[simp] theorem State.emit_trace (s : State) (e : Event) : (s.emit e).trace = s.trace ++ [e] := rfl
@[simp] theorem State.emit_response (s : State) (e : Event) : (s.emit e).response = s.response := rfl
@[simp] theorem State.emit_requests (s : State) (e : Event) : (s.emit e).requests = s.requests := rfl
@[simp] theorem State.emit_lane (s : State) (e : Event) : (s.emit e).lane = s.lane := rfl
@[simp] theorem State.emit_draws (s : State) (e : Event) : (s.emit e).draws = s.draws := rfl
@[simp] theorem State.emit_drawCount (s : State) (e : Event) : (s.emit e).drawCount = s.drawCount := rfl
@[simp] theorem State.emit_resetLine (s : State) (e : Event) : (s.emit e).resetLine = s.resetLine := rfl
@[simp] theorem State.emit_rspReady (s : State) (e : Event) : (s.emit e).rspReady = s.rspReady := rfl

/-! `State.goTo` -/

@[simp] theorem State.goTo_phase (s : State) (p : List Action) : (s.goTo p).phase = s.phase := rfl
@[simp] theorem State.goTo_cursor (s : State) (p : List Action) : (s.goTo p).cursor = s.cursor := rfl
@[simp] theorem State.goTo_lbBuf (s : State) (p : List Action) : (s.goTo p).lbBuf = s.lbBuf := rfl
@[simp] theorem State.goTo_lbOff (s : State) (p : List Action) : (s.goTo p).lbOff = s.lbOff := rfl
@[simp] theorem State.goTo_H (s : State) (p : List Action) : (s.goTo p).H = s.H := rfl
@[simp] theorem State.goTo_L (s : State) (p : List Action) : (s.goTo p).L = s.L := rfl
@[simp] theorem State.goTo_busy (s : State) (p : List Action) : (s.goTo p).busy = s.busy := rfl
@[simp] theorem State.goTo_position (s : State) (p : List Action) : (s.goTo p).position = p := rfl
@[simp] theorem State.goTo_port (s : State) (p : List Action) : (s.goTo p).port = s.port := rfl
@[simp] theorem State.goTo_trace (s : State) (p : List Action) : (s.goTo p).trace = s.trace := rfl
@[simp] theorem State.goTo_response (s : State) (p : List Action) : (s.goTo p).response = s.response := rfl
@[simp] theorem State.goTo_requests (s : State) (p : List Action) : (s.goTo p).requests = s.requests := rfl
@[simp] theorem State.goTo_lane (s : State) (p : List Action) : (s.goTo p).lane = s.lane := rfl
@[simp] theorem State.goTo_draws (s : State) (p : List Action) : (s.goTo p).draws = s.draws := rfl
@[simp] theorem State.goTo_drawCount (s : State) (p : List Action) : (s.goTo p).drawCount = s.drawCount := rfl
@[simp] theorem State.goTo_resetLine (s : State) (p : List Action) : (s.goTo p).resetLine = s.resetLine := rfl
@[simp] theorem State.goTo_rspReady (s : State) (p : List Action) : (s.goTo p).rspReady = s.rspReady := rfl

/-! `State.withDraws` -/

@[simp] theorem State.withDraws_phase (s : State) (ds : List Draw) : (s.withDraws ds).phase = s.phase := rfl
@[simp] theorem State.withDraws_cursor (s : State) (ds : List Draw) : (s.withDraws ds).cursor = s.cursor := rfl
@[simp] theorem State.withDraws_lbBuf (s : State) (ds : List Draw) : (s.withDraws ds).lbBuf = s.lbBuf := rfl
@[simp] theorem State.withDraws_lbOff (s : State) (ds : List Draw) : (s.withDraws ds).lbOff = s.lbOff := rfl
@[simp] theorem State.withDraws_H (s : State) (ds : List Draw) : (s.withDraws ds).H = s.H := rfl
@[simp] theorem State.withDraws_L (s : State) (ds : List Draw) : (s.withDraws ds).L = s.L := rfl
@[simp] theorem State.withDraws_busy (s : State) (ds : List Draw) : (s.withDraws ds).busy = s.busy := rfl
@[simp] theorem State.withDraws_position (s : State) (ds : List Draw) : (s.withDraws ds).position = s.position := rfl
@[simp] theorem State.withDraws_port (s : State) (ds : List Draw) : (s.withDraws ds).port = s.port := rfl
@[simp] theorem State.withDraws_trace (s : State) (ds : List Draw) : (s.withDraws ds).trace = s.trace := rfl
@[simp] theorem State.withDraws_response (s : State) (ds : List Draw) : (s.withDraws ds).response = s.response := rfl
@[simp] theorem State.withDraws_requests (s : State) (ds : List Draw) : (s.withDraws ds).requests = s.requests := rfl
@[simp] theorem State.withDraws_lane (s : State) (ds : List Draw) : (s.withDraws ds).lane = s.lane := rfl
@[simp] theorem State.withDraws_draws (s : State) (ds : List Draw) : (s.withDraws ds).draws = ds := rfl
@[simp] theorem State.withDraws_drawCount (s : State) (ds : List Draw) : (s.withDraws ds).drawCount = s.drawCount := rfl
@[simp] theorem State.withDraws_resetLine (s : State) (ds : List Draw) : (s.withDraws ds).resetLine = s.resetLine := rfl
@[simp] theorem State.withDraws_rspReady (s : State) (ds : List Draw) : (s.withDraws ds).rspReady = s.rspReady := rfl

/-! `State.setH` -/

@[simp] theorem State.setH_phase (s : State) (v : Byte) : (s.setH v).phase = s.phase := rfl
@[simp] theorem State.setH_cursor (s : State) (v : Byte) : (s.setH v).cursor = s.cursor := rfl
@[simp] theorem State.setH_lbBuf (s : State) (v : Byte) : (s.setH v).lbBuf = s.lbBuf := rfl
@[simp] theorem State.setH_lbOff (s : State) (v : Byte) : (s.setH v).lbOff = s.lbOff := rfl
@[simp] theorem State.setH_H (s : State) (v : Byte) : (s.setH v).H = some (hiNibble v) := rfl
@[simp] theorem State.setH_L (s : State) (v : Byte) : (s.setH v).L = s.L := rfl
@[simp] theorem State.setH_busy (s : State) (v : Byte) : (s.setH v).busy = s.busy := rfl
@[simp] theorem State.setH_position (s : State) (v : Byte) : (s.setH v).position = s.position := rfl
@[simp] theorem State.setH_port (s : State) (v : Byte) : (s.setH v).port = s.port := rfl
@[simp] theorem State.setH_trace (s : State) (v : Byte) : (s.setH v).trace = s.trace := rfl
@[simp] theorem State.setH_response (s : State) (v : Byte) : (s.setH v).response = s.response := rfl
@[simp] theorem State.setH_requests (s : State) (v : Byte) : (s.setH v).requests = s.requests := rfl
@[simp] theorem State.setH_lane (s : State) (v : Byte) : (s.setH v).lane = s.lane := rfl
@[simp] theorem State.setH_draws (s : State) (v : Byte) : (s.setH v).draws = s.draws := rfl
@[simp] theorem State.setH_drawCount (s : State) (v : Byte) : (s.setH v).drawCount = s.drawCount := rfl
@[simp] theorem State.setH_resetLine (s : State) (v : Byte) : (s.setH v).resetLine = s.resetLine := rfl
@[simp] theorem State.setH_rspReady (s : State) (v : Byte) : (s.setH v).rspReady = s.rspReady := rfl

/-! `State.setL` -/

@[simp] theorem State.setL_phase (s : State) (v : Byte) : (s.setL v).phase = s.phase := rfl
@[simp] theorem State.setL_cursor (s : State) (v : Byte) : (s.setL v).cursor = s.cursor := rfl
@[simp] theorem State.setL_lbBuf (s : State) (v : Byte) : (s.setL v).lbBuf = s.lbBuf := rfl
@[simp] theorem State.setL_lbOff (s : State) (v : Byte) : (s.setL v).lbOff = s.lbOff := rfl
@[simp] theorem State.setL_H (s : State) (v : Byte) : (s.setL v).H = s.H := rfl
@[simp] theorem State.setL_L (s : State) (v : Byte) : (s.setL v).L = some (hiNibble v) := rfl
@[simp] theorem State.setL_busy (s : State) (v : Byte) : (s.setL v).busy = s.busy := rfl
@[simp] theorem State.setL_position (s : State) (v : Byte) : (s.setL v).position = s.position := rfl
@[simp] theorem State.setL_port (s : State) (v : Byte) : (s.setL v).port = s.port := rfl
@[simp] theorem State.setL_trace (s : State) (v : Byte) : (s.setL v).trace = s.trace := rfl
@[simp] theorem State.setL_response (s : State) (v : Byte) : (s.setL v).response = s.response := rfl
@[simp] theorem State.setL_requests (s : State) (v : Byte) : (s.setL v).requests = s.requests := rfl
@[simp] theorem State.setL_lane (s : State) (v : Byte) : (s.setL v).lane = s.lane := rfl
@[simp] theorem State.setL_draws (s : State) (v : Byte) : (s.setL v).draws = s.draws := rfl
@[simp] theorem State.setL_drawCount (s : State) (v : Byte) : (s.setL v).drawCount = s.drawCount := rfl
@[simp] theorem State.setL_resetLine (s : State) (v : Byte) : (s.setL v).resetLine = s.resetLine := rfl
@[simp] theorem State.setL_rspReady (s : State) (v : Byte) : (s.setL v).rspReady = s.rspReady := rfl

/-! `State.setBusy` -/

@[simp] theorem State.setBusy_phase (s : State) (b : Option Bool) : (s.setBusy b).phase = s.phase := rfl
@[simp] theorem State.setBusy_cursor (s : State) (b : Option Bool) : (s.setBusy b).cursor = s.cursor := rfl
@[simp] theorem State.setBusy_lbBuf (s : State) (b : Option Bool) : (s.setBusy b).lbBuf = s.lbBuf := rfl
@[simp] theorem State.setBusy_lbOff (s : State) (b : Option Bool) : (s.setBusy b).lbOff = s.lbOff := rfl
@[simp] theorem State.setBusy_H (s : State) (b : Option Bool) : (s.setBusy b).H = s.H := rfl
@[simp] theorem State.setBusy_L (s : State) (b : Option Bool) : (s.setBusy b).L = s.L := rfl
@[simp] theorem State.setBusy_busy (s : State) (b : Option Bool) : (s.setBusy b).busy = b := rfl
@[simp] theorem State.setBusy_position (s : State) (b : Option Bool) : (s.setBusy b).position = s.position := rfl
@[simp] theorem State.setBusy_port (s : State) (b : Option Bool) : (s.setBusy b).port = s.port := rfl
@[simp] theorem State.setBusy_trace (s : State) (b : Option Bool) : (s.setBusy b).trace = s.trace := rfl
@[simp] theorem State.setBusy_response (s : State) (b : Option Bool) : (s.setBusy b).response = s.response := rfl
@[simp] theorem State.setBusy_requests (s : State) (b : Option Bool) : (s.setBusy b).requests = s.requests := rfl
@[simp] theorem State.setBusy_lane (s : State) (b : Option Bool) : (s.setBusy b).lane = s.lane := rfl
@[simp] theorem State.setBusy_draws (s : State) (b : Option Bool) : (s.setBusy b).draws = s.draws := rfl
@[simp] theorem State.setBusy_drawCount (s : State) (b : Option Bool) : (s.setBusy b).drawCount = s.drawCount := rfl
@[simp] theorem State.setBusy_resetLine (s : State) (b : Option Bool) : (s.setBusy b).resetLine = s.resetLine := rfl
@[simp] theorem State.setBusy_rspReady (s : State) (b : Option Bool) : (s.setBusy b).rspReady = s.rspReady := rfl

/-! `State.setPhase` -/

@[simp] theorem State.setPhase_phase (s : State) (p : Phase) : (s.setPhase p).phase = p := rfl
@[simp] theorem State.setPhase_cursor (s : State) (p : Phase) : (s.setPhase p).cursor = s.cursor := rfl
@[simp] theorem State.setPhase_lbBuf (s : State) (p : Phase) : (s.setPhase p).lbBuf = s.lbBuf := rfl
@[simp] theorem State.setPhase_lbOff (s : State) (p : Phase) : (s.setPhase p).lbOff = s.lbOff := rfl
@[simp] theorem State.setPhase_H (s : State) (p : Phase) : (s.setPhase p).H = s.H := rfl
@[simp] theorem State.setPhase_L (s : State) (p : Phase) : (s.setPhase p).L = s.L := rfl
@[simp] theorem State.setPhase_busy (s : State) (p : Phase) : (s.setPhase p).busy = s.busy := rfl
@[simp] theorem State.setPhase_position (s : State) (p : Phase) : (s.setPhase p).position = s.position := rfl
@[simp] theorem State.setPhase_port (s : State) (p : Phase) : (s.setPhase p).port = s.port := rfl
@[simp] theorem State.setPhase_trace (s : State) (p : Phase) : (s.setPhase p).trace = s.trace := rfl
@[simp] theorem State.setPhase_response (s : State) (p : Phase) : (s.setPhase p).response = s.response := rfl
@[simp] theorem State.setPhase_requests (s : State) (p : Phase) : (s.setPhase p).requests = s.requests := rfl
@[simp] theorem State.setPhase_lane (s : State) (p : Phase) : (s.setPhase p).lane = s.lane := rfl
@[simp] theorem State.setPhase_draws (s : State) (p : Phase) : (s.setPhase p).draws = s.draws := rfl
@[simp] theorem State.setPhase_drawCount (s : State) (p : Phase) : (s.setPhase p).drawCount = s.drawCount := rfl
@[simp] theorem State.setPhase_resetLine (s : State) (p : Phase) : (s.setPhase p).resetLine = s.resetLine := rfl
@[simp] theorem State.setPhase_rspReady (s : State) (p : Phase) : (s.setPhase p).rspReady = s.rspReady := rfl

/-! `State.setCursor` -/

@[simp] theorem State.setCursor_phase (s : State) (pos : Nat) : (s.setCursor pos).phase = s.phase := rfl
@[simp] theorem State.setCursor_cursor (s : State) (pos : Nat) : (s.setCursor pos).cursor = some pos := rfl
@[simp] theorem State.setCursor_lbBuf (s : State) (pos : Nat) : (s.setCursor pos).lbBuf = s.lbBuf := rfl
@[simp] theorem State.setCursor_lbOff (s : State) (pos : Nat) : (s.setCursor pos).lbOff = s.lbOff := rfl
@[simp] theorem State.setCursor_H (s : State) (pos : Nat) : (s.setCursor pos).H = s.H := rfl
@[simp] theorem State.setCursor_L (s : State) (pos : Nat) : (s.setCursor pos).L = s.L := rfl
@[simp] theorem State.setCursor_busy (s : State) (pos : Nat) : (s.setCursor pos).busy = s.busy := rfl
@[simp] theorem State.setCursor_position (s : State) (pos : Nat) : (s.setCursor pos).position = s.position := rfl
@[simp] theorem State.setCursor_port (s : State) (pos : Nat) : (s.setCursor pos).port = s.port := rfl
@[simp] theorem State.setCursor_trace (s : State) (pos : Nat) : (s.setCursor pos).trace = s.trace := rfl
@[simp] theorem State.setCursor_response (s : State) (pos : Nat) : (s.setCursor pos).response = s.response := rfl
@[simp] theorem State.setCursor_requests (s : State) (pos : Nat) : (s.setCursor pos).requests = s.requests := rfl
@[simp] theorem State.setCursor_lane (s : State) (pos : Nat) : (s.setCursor pos).lane = s.lane := rfl
@[simp] theorem State.setCursor_draws (s : State) (pos : Nat) : (s.setCursor pos).draws = s.draws := rfl
@[simp] theorem State.setCursor_drawCount (s : State) (pos : Nat) : (s.setCursor pos).drawCount = s.drawCount := rfl
@[simp] theorem State.setCursor_resetLine (s : State) (pos : Nat) : (s.setCursor pos).resetLine = s.resetLine := rfl
@[simp] theorem State.setCursor_rspReady (s : State) (pos : Nat) : (s.setCursor pos).rspReady = s.rspReady := rfl

/-! `State.setLbBuf` -/

@[simp] theorem State.setLbBuf_phase (s : State) (m : Memory) : (s.setLbBuf m).phase = s.phase := rfl
@[simp] theorem State.setLbBuf_cursor (s : State) (m : Memory) : (s.setLbBuf m).cursor = s.cursor := rfl
@[simp] theorem State.setLbBuf_lbBuf (s : State) (m : Memory) : (s.setLbBuf m).lbBuf = m := rfl
@[simp] theorem State.setLbBuf_lbOff (s : State) (m : Memory) : (s.setLbBuf m).lbOff = s.lbOff := rfl
@[simp] theorem State.setLbBuf_H (s : State) (m : Memory) : (s.setLbBuf m).H = s.H := rfl
@[simp] theorem State.setLbBuf_L (s : State) (m : Memory) : (s.setLbBuf m).L = s.L := rfl
@[simp] theorem State.setLbBuf_busy (s : State) (m : Memory) : (s.setLbBuf m).busy = s.busy := rfl
@[simp] theorem State.setLbBuf_position (s : State) (m : Memory) : (s.setLbBuf m).position = s.position := rfl
@[simp] theorem State.setLbBuf_port (s : State) (m : Memory) : (s.setLbBuf m).port = s.port := rfl
@[simp] theorem State.setLbBuf_trace (s : State) (m : Memory) : (s.setLbBuf m).trace = s.trace := rfl
@[simp] theorem State.setLbBuf_response (s : State) (m : Memory) : (s.setLbBuf m).response = s.response := rfl
@[simp] theorem State.setLbBuf_requests (s : State) (m : Memory) : (s.setLbBuf m).requests = s.requests := rfl
@[simp] theorem State.setLbBuf_lane (s : State) (m : Memory) : (s.setLbBuf m).lane = s.lane := rfl
@[simp] theorem State.setLbBuf_draws (s : State) (m : Memory) : (s.setLbBuf m).draws = s.draws := rfl
@[simp] theorem State.setLbBuf_drawCount (s : State) (m : Memory) : (s.setLbBuf m).drawCount = s.drawCount := rfl
@[simp] theorem State.setLbBuf_resetLine (s : State) (m : Memory) : (s.setLbBuf m).resetLine = s.resetLine := rfl
@[simp] theorem State.setLbBuf_rspReady (s : State) (m : Memory) : (s.setLbBuf m).rspReady = s.rspReady := rfl

/-! `State.setLbOff` -/

@[simp] theorem State.setLbOff_phase (s : State) (n : Nat) : (s.setLbOff n).phase = s.phase := rfl
@[simp] theorem State.setLbOff_cursor (s : State) (n : Nat) : (s.setLbOff n).cursor = s.cursor := rfl
@[simp] theorem State.setLbOff_lbBuf (s : State) (n : Nat) : (s.setLbOff n).lbBuf = s.lbBuf := rfl
@[simp] theorem State.setLbOff_lbOff (s : State) (n : Nat) : (s.setLbOff n).lbOff = n := rfl
@[simp] theorem State.setLbOff_H (s : State) (n : Nat) : (s.setLbOff n).H = s.H := rfl
@[simp] theorem State.setLbOff_L (s : State) (n : Nat) : (s.setLbOff n).L = s.L := rfl
@[simp] theorem State.setLbOff_busy (s : State) (n : Nat) : (s.setLbOff n).busy = s.busy := rfl
@[simp] theorem State.setLbOff_position (s : State) (n : Nat) : (s.setLbOff n).position = s.position := rfl
@[simp] theorem State.setLbOff_port (s : State) (n : Nat) : (s.setLbOff n).port = s.port := rfl
@[simp] theorem State.setLbOff_trace (s : State) (n : Nat) : (s.setLbOff n).trace = s.trace := rfl
@[simp] theorem State.setLbOff_response (s : State) (n : Nat) : (s.setLbOff n).response = s.response := rfl
@[simp] theorem State.setLbOff_requests (s : State) (n : Nat) : (s.setLbOff n).requests = s.requests := rfl
@[simp] theorem State.setLbOff_lane (s : State) (n : Nat) : (s.setLbOff n).lane = s.lane := rfl
@[simp] theorem State.setLbOff_draws (s : State) (n : Nat) : (s.setLbOff n).draws = s.draws := rfl
@[simp] theorem State.setLbOff_drawCount (s : State) (n : Nat) : (s.setLbOff n).drawCount = s.drawCount := rfl
@[simp] theorem State.setLbOff_resetLine (s : State) (n : Nat) : (s.setLbOff n).resetLine = s.resetLine := rfl
@[simp] theorem State.setLbOff_rspReady (s : State) (n : Nat) : (s.setLbOff n).rspReady = s.rspReady := rfl

/-! `State.idle` -/

@[simp] theorem State.idle_phase (s : State) : (s.idle).phase = s.phase := rfl
@[simp] theorem State.idle_cursor (s : State) : (s.idle).cursor = s.cursor := rfl
@[simp] theorem State.idle_lbBuf (s : State) : (s.idle).lbBuf = s.lbBuf := rfl
@[simp] theorem State.idle_lbOff (s : State) : (s.idle).lbOff = s.lbOff := rfl
@[simp] theorem State.idle_H (s : State) : (s.idle).H = none := rfl
@[simp] theorem State.idle_L (s : State) : (s.idle).L = none := rfl
@[simp] theorem State.idle_busy (s : State) : (s.idle).busy = none := rfl
@[simp] theorem State.idle_position (s : State) : (s.idle).position = [] := rfl
@[simp] theorem State.idle_port (s : State) : (s.idle).port = s.port := rfl
@[simp] theorem State.idle_trace (s : State) : (s.idle).trace = s.trace := rfl
@[simp] theorem State.idle_response (s : State) : (s.idle).response = s.response := rfl
@[simp] theorem State.idle_requests (s : State) : (s.idle).requests = s.requests := rfl
@[simp] theorem State.idle_lane (s : State) : (s.idle).lane = s.lane := rfl
@[simp] theorem State.idle_draws (s : State) : (s.idle).draws = s.draws := rfl
@[simp] theorem State.idle_drawCount (s : State) : (s.idle).drawCount = s.drawCount := rfl
@[simp] theorem State.idle_resetLine (s : State) : (s.idle).resetLine = s.resetLine := rfl
@[simp] theorem State.idle_rspReady (s : State) : (s.idle).rspReady = s.rspReady := rfl

/-! `State.finish` -/

@[simp] theorem State.finish_phase (s : State) (r : Response) : (s.finish r).phase = s.phase := rfl
@[simp] theorem State.finish_cursor (s : State) (r : Response) : (s.finish r).cursor = s.cursor := rfl
@[simp] theorem State.finish_lbBuf (s : State) (r : Response) : (s.finish r).lbBuf = s.lbBuf := rfl
@[simp] theorem State.finish_lbOff (s : State) (r : Response) : (s.finish r).lbOff = s.lbOff := rfl
@[simp] theorem State.finish_H (s : State) (r : Response) : (s.finish r).H = none := rfl
@[simp] theorem State.finish_L (s : State) (r : Response) : (s.finish r).L = none := rfl
@[simp] theorem State.finish_busy (s : State) (r : Response) : (s.finish r).busy = none := rfl
@[simp] theorem State.finish_position (s : State) (r : Response) : (s.finish r).position = [] := rfl
@[simp] theorem State.finish_port (s : State) (r : Response) : (s.finish r).port = s.port := rfl
@[simp] theorem State.finish_trace (s : State) (r : Response) : (s.finish r).trace = s.trace := rfl
@[simp] theorem State.finish_response (s : State) (r : Response) : (s.finish r).response = some r := rfl
@[simp] theorem State.finish_requests (s : State) (r : Response) : (s.finish r).requests = s.requests := rfl
@[simp] theorem State.finish_lane (s : State) (r : Response) : (s.finish r).lane = s.lane := rfl
@[simp] theorem State.finish_draws (s : State) (r : Response) : (s.finish r).draws = s.draws := rfl
@[simp] theorem State.finish_drawCount (s : State) (r : Response) : (s.finish r).drawCount = s.drawCount := rfl
@[simp] theorem State.finish_resetLine (s : State) (r : Response) : (s.finish r).resetLine = s.resetLine := rfl
@[simp] theorem State.finish_rspReady (s : State) (r : Response) : (s.finish r).rspReady = s.rspReady := rfl

/-! `State.raiseError` -/

@[simp] theorem State.raiseError_phase (s : State) (e : DriverError) : (s.raiseError e).phase = s.phase := rfl
@[simp] theorem State.raiseError_cursor (s : State) (e : DriverError) : (s.raiseError e).cursor = s.cursor := rfl
@[simp] theorem State.raiseError_lbBuf (s : State) (e : DriverError) : (s.raiseError e).lbBuf = s.lbBuf := rfl
@[simp] theorem State.raiseError_lbOff (s : State) (e : DriverError) : (s.raiseError e).lbOff = s.lbOff := rfl
@[simp] theorem State.raiseError_H (s : State) (e : DriverError) : (s.raiseError e).H = none := rfl
@[simp] theorem State.raiseError_L (s : State) (e : DriverError) : (s.raiseError e).L = none := rfl
@[simp] theorem State.raiseError_busy (s : State) (e : DriverError) : (s.raiseError e).busy = none := rfl
@[simp] theorem State.raiseError_position (s : State) (e : DriverError) : (s.raiseError e).position = [] := rfl
@[simp] theorem State.raiseError_port (s : State) (e : DriverError) : (s.raiseError e).port = s.port := rfl
@[simp] theorem State.raiseError_trace (s : State) (e : DriverError) : (s.raiseError e).trace = s.trace := rfl
@[simp] theorem State.raiseError_response (s : State) (e : DriverError) : (s.raiseError e).response = some (.error e) := rfl
@[simp] theorem State.raiseError_requests (s : State) (e : DriverError) : (s.raiseError e).requests = s.requests := rfl
@[simp] theorem State.raiseError_lane (s : State) (e : DriverError) : (s.raiseError e).lane = s.lane := rfl
@[simp] theorem State.raiseError_draws (s : State) (e : DriverError) : (s.raiseError e).draws = s.draws := rfl
@[simp] theorem State.raiseError_drawCount (s : State) (e : DriverError) : (s.raiseError e).drawCount = s.drawCount := rfl
@[simp] theorem State.raiseError_resetLine (s : State) (e : DriverError) : (s.raiseError e).resetLine = s.resetLine := rfl
@[simp] theorem State.raiseError_rspReady (s : State) (e : DriverError) : (s.raiseError e).rspReady = s.rspReady := rfl

/-! `State.takeResponse` -/

@[simp] theorem State.takeResponse_phase (s : State) : s.takeResponse.phase = s.phase := rfl
@[simp] theorem State.takeResponse_cursor (s : State) : s.takeResponse.cursor = s.cursor := rfl
@[simp] theorem State.takeResponse_lbBuf (s : State) : s.takeResponse.lbBuf = s.lbBuf := rfl
@[simp] theorem State.takeResponse_lbOff (s : State) : s.takeResponse.lbOff = s.lbOff := rfl
@[simp] theorem State.takeResponse_H (s : State) : s.takeResponse.H = s.H := rfl
@[simp] theorem State.takeResponse_L (s : State) : s.takeResponse.L = s.L := rfl
@[simp] theorem State.takeResponse_busy (s : State) : s.takeResponse.busy = s.busy := rfl
@[simp] theorem State.takeResponse_position (s : State) : s.takeResponse.position = s.position := rfl
@[simp] theorem State.takeResponse_port (s : State) : s.takeResponse.port = s.port := rfl
@[simp] theorem State.takeResponse_trace (s : State) : s.takeResponse.trace = s.trace := rfl
@[simp] theorem State.takeResponse_response (s : State) : s.takeResponse.response = none := rfl
@[simp] theorem State.takeResponse_requests (s : State) : s.takeResponse.requests = s.requests := rfl
@[simp] theorem State.takeResponse_lane (s : State) : s.takeResponse.lane = s.lane := rfl
@[simp] theorem State.takeResponse_draws (s : State) : s.takeResponse.draws = s.draws := rfl
@[simp] theorem State.takeResponse_drawCount (s : State) : s.takeResponse.drawCount = s.drawCount := rfl
@[simp] theorem State.takeResponse_resetLine (s : State) : s.takeResponse.resetLine = s.resetLine := rfl
@[simp] theorem State.takeResponse_rspReady (s : State) : s.takeResponse.rspReady = s.rspReady := rfl

/-! `State.wrote` -/

@[simp] theorem State.wrote_phase (s : State) (v : Byte) : (s.wrote v).phase = s.phase := rfl
@[simp] theorem State.wrote_cursor (s : State) (v : Byte) : (s.wrote v).cursor = s.cursor := rfl
@[simp] theorem State.wrote_lbBuf (s : State) (v : Byte) : (s.wrote v).lbBuf = s.lbBuf := rfl
@[simp] theorem State.wrote_lbOff (s : State) (v : Byte) : (s.wrote v).lbOff = s.lbOff := rfl
@[simp] theorem State.wrote_H (s : State) (v : Byte) : (s.wrote v).H = s.H := rfl
@[simp] theorem State.wrote_L (s : State) (v : Byte) : (s.wrote v).L = s.L := rfl
@[simp] theorem State.wrote_busy (s : State) (v : Byte) : (s.wrote v).busy = s.busy := rfl
@[simp] theorem State.wrote_position (s : State) (v : Byte) : (s.wrote v).position = s.position := rfl
@[simp] theorem State.wrote_port (s : State) (v : Byte) : (s.wrote v).port = some v := rfl
@[simp] theorem State.wrote_trace (s : State) (v : Byte) : (s.wrote v).trace = s.trace ++ [.write v] := rfl
@[simp] theorem State.wrote_response (s : State) (v : Byte) : (s.wrote v).response = s.response := rfl
@[simp] theorem State.wrote_requests (s : State) (v : Byte) : (s.wrote v).requests = s.requests := rfl
@[simp] theorem State.wrote_lane (s : State) (v : Byte) : (s.wrote v).lane = s.lane := rfl
@[simp] theorem State.wrote_draws (s : State) (v : Byte) : (s.wrote v).draws = s.draws := rfl
@[simp] theorem State.wrote_drawCount (s : State) (v : Byte) : (s.wrote v).drawCount = s.drawCount := rfl
@[simp] theorem State.wrote_resetLine (s : State) (v : Byte) : (s.wrote v).resetLine = s.resetLine := rfl
@[simp] theorem State.wrote_rspReady (s : State) (v : Byte) : (s.wrote v).rspReady = s.rspReady := rfl

/-! `State.writeFailed` -/

@[simp] theorem State.writeFailed_phase (s : State) (v : Byte) : (s.writeFailed v).phase = s.phase := rfl
@[simp] theorem State.writeFailed_cursor (s : State) (v : Byte) : (s.writeFailed v).cursor = s.cursor := rfl
@[simp] theorem State.writeFailed_lbBuf (s : State) (v : Byte) : (s.writeFailed v).lbBuf = s.lbBuf := rfl
@[simp] theorem State.writeFailed_lbOff (s : State) (v : Byte) : (s.writeFailed v).lbOff = s.lbOff := rfl
@[simp] theorem State.writeFailed_H (s : State) (v : Byte) : (s.writeFailed v).H = s.H := rfl
@[simp] theorem State.writeFailed_L (s : State) (v : Byte) : (s.writeFailed v).L = s.L := rfl
@[simp] theorem State.writeFailed_busy (s : State) (v : Byte) : (s.writeFailed v).busy = s.busy := rfl
@[simp] theorem State.writeFailed_position (s : State) (v : Byte) : (s.writeFailed v).position = s.position := rfl
@[simp] theorem State.writeFailed_port (s : State) (v : Byte) : (s.writeFailed v).port = none := rfl
@[simp] theorem State.writeFailed_trace (s : State) (v : Byte) : (s.writeFailed v).trace = s.trace ++ [.writeErr v] := rfl
@[simp] theorem State.writeFailed_response (s : State) (v : Byte) : (s.writeFailed v).response = s.response := rfl
@[simp] theorem State.writeFailed_requests (s : State) (v : Byte) : (s.writeFailed v).requests = s.requests := rfl
@[simp] theorem State.writeFailed_lane (s : State) (v : Byte) : (s.writeFailed v).lane = s.lane := rfl
@[simp] theorem State.writeFailed_draws (s : State) (v : Byte) : (s.writeFailed v).draws = s.draws := rfl
@[simp] theorem State.writeFailed_drawCount (s : State) (v : Byte) : (s.writeFailed v).drawCount = s.drawCount := rfl
@[simp] theorem State.writeFailed_resetLine (s : State) (v : Byte) : (s.writeFailed v).resetLine = s.resetLine := rfl
@[simp] theorem State.writeFailed_rspReady (s : State) (v : Byte) : (s.writeFailed v).rspReady = s.rspReady := rfl

/-! `State.takeStatus` -/

@[simp] theorem State.takeStatus_phase (s : State) (v : Byte) : (s.takeStatus v).phase = s.phase := rfl
@[simp] theorem State.takeStatus_cursor (s : State) (v : Byte) : (s.takeStatus v).cursor = s.cursor := rfl
@[simp] theorem State.takeStatus_lbBuf (s : State) (v : Byte) : (s.takeStatus v).lbBuf = s.lbBuf := rfl
@[simp] theorem State.takeStatus_lbOff (s : State) (v : Byte) : (s.takeStatus v).lbOff = s.lbOff := rfl
@[simp] theorem State.takeStatus_H (s : State) (v : Byte) : (s.takeStatus v).H = s.H := rfl
@[simp] theorem State.takeStatus_L (s : State) (v : Byte) : (s.takeStatus v).L = s.L := rfl
@[simp] theorem State.takeStatus_busy (s : State) (v : Byte) : (s.takeStatus v).busy = some (statusBusy v) := rfl
@[simp] theorem State.takeStatus_position (s : State) (v : Byte) : (s.takeStatus v).position = s.position := rfl
@[simp] theorem State.takeStatus_port (s : State) (v : Byte) : (s.takeStatus v).port = s.port := rfl
@[simp] theorem State.takeStatus_trace (s : State) (v : Byte) : (s.takeStatus v).trace = s.trace := rfl
@[simp] theorem State.takeStatus_response (s : State) (v : Byte) : (s.takeStatus v).response = s.response := rfl
@[simp] theorem State.takeStatus_requests (s : State) (v : Byte) : (s.takeStatus v).requests = s.requests := rfl
@[simp] theorem State.takeStatus_lane (s : State) (v : Byte) : (s.takeStatus v).lane = s.lane := rfl
@[simp] theorem State.takeStatus_draws (s : State) (v : Byte) : (s.takeStatus v).draws = s.draws := rfl
@[simp] theorem State.takeStatus_drawCount (s : State) (v : Byte) : (s.takeStatus v).drawCount = s.drawCount := rfl
@[simp] theorem State.takeStatus_resetLine (s : State) (v : Byte) : (s.takeStatus v).resetLine = s.resetLine := rfl
@[simp] theorem State.takeStatus_rspReady (s : State) (v : Byte) : (s.takeStatus v).rspReady = s.rspReady := rfl

/-! `State.applyReset` -/

@[simp] theorem State.applyReset_phase (s : State) : s.applyReset.phase = State.reset.phase := rfl
@[simp] theorem State.applyReset_cursor (s : State) : s.applyReset.cursor = State.reset.cursor := rfl
@[simp] theorem State.applyReset_lbBuf (s : State) : s.applyReset.lbBuf = State.reset.lbBuf := rfl
@[simp] theorem State.applyReset_lbOff (s : State) : s.applyReset.lbOff = State.reset.lbOff := rfl
@[simp] theorem State.applyReset_H (s : State) : s.applyReset.H = State.reset.H := rfl
@[simp] theorem State.applyReset_L (s : State) : s.applyReset.L = State.reset.L := rfl
@[simp] theorem State.applyReset_busy (s : State) : s.applyReset.busy = State.reset.busy := rfl
@[simp] theorem State.applyReset_position (s : State) : s.applyReset.position = State.reset.position := rfl
@[simp] theorem State.applyReset_port (s : State) : s.applyReset.port = State.reset.port := rfl
@[simp] theorem State.applyReset_trace (s : State) : s.applyReset.trace = State.reset.trace := rfl
@[simp] theorem State.applyReset_response (s : State) : s.applyReset.response = State.reset.response := rfl
@[simp] theorem State.applyReset_requests (s : State) : s.applyReset.requests = s.requests := rfl
@[simp] theorem State.applyReset_lane (s : State) : s.applyReset.lane = State.reset.lane := rfl
@[simp] theorem State.applyReset_draws (s : State) : s.applyReset.draws = s.draws := rfl
@[simp] theorem State.applyReset_drawCount (s : State) : s.applyReset.drawCount = s.drawCount := rfl
@[simp] theorem State.applyReset_resetLine (s : State) : s.applyReset.resetLine = State.reset.resetLine := rfl
@[simp] theorem State.applyReset_rspReady (s : State) : s.applyReset.rspReady = s.rspReady := rfl

end Sys2Proof.Machine
end

