-- ==== Sys2Proof/Laws/Ops.lean ====
section
/-! SUPPORT. The laws of running pseudocode: what each statement does when it is next, what running leaves alone, and that a
list of answers may be given at once or in parts. -/

namespace Sys2Proof.Machine

open Sys2Proof

/-! ## Beginning an operation -/

theorem whenIdle_idle {s : State} (h : s.Idle) (k : State → Host.Outcome State Fault Refusal) :
    whenIdle s k = k s := by
  simp only [whenIdle, h.1, h.2]

theorem whenIdle_notIdle {s : State} (h : ¬ s.Idle) (k : State → Host.Outcome State Fault Refusal) :
    whenIdle s k = .refused .requestInFlight := by
  unfold whenIdle
  split
  · next hp hr => exact absurd ⟨hp, hr⟩ h
  · rfl

/-- Run `code` from `s` against `ds`: what `State.start` does once its answers are named. -/
def State.go (ds : List Draw) (code : List Action) (s : State) : State := State.run ds (State.settle code s)

theorem State.start_eq_go (code : List Action) (s : State) : State.start code s = State.go s.draws code s := rfl

theorem perform_eq_go {s : State} (h : s.Idle) (code : List Action) :
    perform code s = .next (State.go s.draws code s) := by
  rw [perform, whenIdle_idle h]; rfl

/-- A response that stands is taken when the host is ready for it, and stands on otherwise (R238 (a)). -/
theorem State.handshake_cases (s : State) :
    (s.rspReady = true ∧ s.handshake = s.takeResponse) ∨ (s.rspReady = false ∧ s.handshake = s) := by
  cases h : s.rspReady <;> simp [State.handshake, h]

/-! ## The position and the answers before a statement do not matter -/

theorem State.settle_goTo (code : List Action) (s : State) (p : List Action) :
    State.settle code (s.goTo p) = State.settle code s := by
  induction code generalizing s with
  | nil => rfl
  | cons a k ih =>
    cases a with
    | write v => rfl
    | readHi => rfl
    | readLo => rfl
    | status => exact ih (s.setBusy (busyFlag s.H s.L))
    | testBusy =>
      rcases hb : s.busy with _ | _ | _
      · simp only [State.settle, State.goTo_busy, hb]; rfl
      · simpa only [State.settle, State.goTo_busy, hb] using ih s
      · simp only [State.settle, State.goTo_busy, hb]; rfl
    | setPhase ph => exact ih (s.setPhase ph)
    | setCursor c => exact ih (s.setCursor c)
    | emptyBuffer => exact ih (s.setLbOff 0)
    | answer v => rfl
    | answerBusy => rcases hb : s.busy with _ | _ <;> simp only [State.settle, State.goTo_busy, hb] <;> rfl
    | ret => rfl

theorem State.settle_withDraws (code : List Action) (s : State) (d : List Draw) :
    State.settle code (s.withDraws d) = (State.settle code s).withDraws d := by
  induction code generalizing s with
  | nil => rfl
  | cons a k ih =>
    cases a with
    | write v => rfl
    | readHi => rfl
    | readLo => rfl
    | status => exact ih (s.setBusy (busyFlag s.H s.L))
    | testBusy =>
      rcases hb : s.busy with _ | _ | _
      · simp only [State.settle, State.withDraws_busy, hb]; rfl
      · simpa only [State.settle, State.withDraws_busy, hb] using ih s
      · simp only [State.settle, State.withDraws_busy, hb]; rfl
    | setPhase ph => exact ih (s.setPhase ph)
    | setCursor c => exact ih (s.setCursor c)
    | emptyBuffer => exact ih (s.setLbOff 0)
    | answer v => rfl
    | answerBusy => rcases hb : s.busy with _ | _ <;> simp only [State.settle, State.withDraws_busy, hb] <;> rfl
    | ret => rfl

/-! ## What running leaves alone -/

/-- The parts of the state that neither statements nor transport calls write. -/
structure SameOutside (s t : State) : Prop where
  lbBuf : t.lbBuf = s.lbBuf
  requests : t.requests = s.requests
  lane : t.lane = s.lane
  drawCount : t.drawCount = s.drawCount
  resetLine : t.resetLine = s.resetLine
  rspReady : t.rspReady = s.rspReady

theorem SameOutside.refl (s : State) : SameOutside s s := ⟨rfl, rfl, rfl, rfl, rfl, rfl⟩

theorem SameOutside.trans {s t u : State} (h : SameOutside s t) (g : SameOutside t u) : SameOutside s u :=
  ⟨g.lbBuf.trans h.lbBuf, g.requests.trans h.requests, g.lane.trans h.lane, g.drawCount.trans h.drawCount,
    g.resetLine.trans h.resetLine, g.rspReady.trans h.rspReady⟩

theorem State.settle_sameOutside (code : List Action) (s : State) : SameOutside s (State.settle code s) := by
  induction code generalizing s with
  | nil => exact ⟨rfl, rfl, rfl, rfl, rfl, rfl⟩
  | cons a k ih =>
    cases a with
    | write v => exact ⟨rfl, rfl, rfl, rfl, rfl, rfl⟩
    | readHi => exact ⟨rfl, rfl, rfl, rfl, rfl, rfl⟩
    | readLo => exact ⟨rfl, rfl, rfl, rfl, rfl, rfl⟩
    | status =>
      exact SameOutside.trans (t := s.setBusy (busyFlag s.H s.L)) ⟨rfl, rfl, rfl, rfl, rfl, rfl⟩ (ih _)
    | testBusy =>
      simp only [State.settle]
      cases s.busy with
      | none => exact ⟨rfl, rfl, rfl, rfl, rfl, rfl⟩
      | some b => cases b with
        | false => exact ih s
        | true => exact ⟨rfl, rfl, rfl, rfl, rfl, rfl⟩
    | setPhase ph => exact SameOutside.trans (t := s.setPhase ph) ⟨rfl, rfl, rfl, rfl, rfl, rfl⟩ (ih _)
    | setCursor c => exact SameOutside.trans (t := s.setCursor c) ⟨rfl, rfl, rfl, rfl, rfl, rfl⟩ (ih _)
    | emptyBuffer => exact SameOutside.trans (t := s.setLbOff 0) ⟨rfl, rfl, rfl, rfl, rfl, rfl⟩ (ih _)
    | answer v => exact ⟨rfl, rfl, rfl, rfl, rfl, rfl⟩
    | answerBusy => simp only [State.settle]; cases s.busy <;> exact ⟨rfl, rfl, rfl, rfl, rfl, rfl⟩
    | ret => exact ⟨rfl, rfl, rfl, rfl, rfl, rfl⟩

theorem State.call_write_ok {s : State} {v x : Byte} {k : List Action} (h : s.position = .write v :: k) :
    s.call (.ok x) = State.settle k (s.wrote v) := by
  simp only [State.call, h]

theorem State.call_readHi_ok {s : State} {r : Byte} {k : List Action} (h : s.position = .readHi :: k) :
    s.call (.ok r) = State.settle k ((s.emit (.read r)).setH r) := by
  simp only [State.call, h]

theorem State.call_readLo_ok {s : State} {r : Byte} {k : List Action} (h : s.position = .readLo :: k) :
    s.call (.ok r) = State.settle k ((s.emit (.read r)).setL r) := by
  simp only [State.call, h]

/-- All that one transport call with its answer can be: a write, a first read or a second read that succeeds and goes on,
one that fails and ends the operation, or no call at all. -/
theorem State.call_cases (d : Draw) (s : State) :
    (∃ v k x, s.position = .write v :: k ∧ d = .ok x ∧ s.call d = State.settle k (s.wrote v))
    ∨ (∃ v k e, s.position = .write v :: k ∧ d = .err e ∧ s.call d = (s.writeFailed v).raiseError (.busError e))
    ∨ (∃ k r, s.position = .readHi :: k ∧ d = .ok r
        ∧ s.call d = State.settle k ((s.emit (.read r)).setH r))
    ∨ (∃ k r, s.position = .readLo :: k ∧ d = .ok r
        ∧ s.call d = State.settle k ((s.emit (.read r)).setL r))
    ∨ (∃ a k e, s.position = a :: k ∧ (a = .readHi ∨ a = .readLo) ∧ d = .err e
        ∧ s.call d = (s.emit .readErr).raiseError (.busError e))
    ∨ (s.awaiting = false ∧ s.call d = s) := by
  unfold State.call State.awaiting
  cases hp : s.position with
  | nil => simp
  | cons a k =>
    cases a <;> cases d <;> simp [Action.isCall]

theorem State.call_sameOutside (d : Draw) (s : State) : SameOutside s (s.call d) := by
  rcases s.call_cases d with ⟨v, k, x, -, -, h⟩ | ⟨v, k, e, -, -, h⟩ | ⟨k, r, -, -, h⟩ | ⟨k, r, -, -, h⟩
    | ⟨a, k, e, -, -, -, h⟩ | ⟨-, h⟩ <;> rw [h]
  · exact SameOutside.trans (t := s.wrote v) ⟨rfl, rfl, rfl, rfl, rfl, rfl⟩ (State.settle_sameOutside _ _)
  · exact ⟨rfl, rfl, rfl, rfl, rfl, rfl⟩
  · exact SameOutside.trans (t := ((s.emit (.read r)).setH r)) ⟨rfl, rfl, rfl, rfl, rfl, rfl⟩
      (State.settle_sameOutside _ _)
  · exact SameOutside.trans (t := ((s.emit (.read r)).setL r)) ⟨rfl, rfl, rfl, rfl, rfl, rfl⟩
      (State.settle_sameOutside _ _)
  · exact ⟨rfl, rfl, rfl, rfl, rfl, rfl⟩
  · exact SameOutside.refl s

theorem State.run_sameOutside (ds : List Draw) (s : State) : SameOutside s (State.run ds s) := by
  induction ds generalizing s with
  | nil => exact ⟨rfl, rfl, rfl, rfl, rfl, rfl⟩
  | cons d ds ih =>
    simp only [State.run]
    split
    · exact (State.call_sameOutside d s).trans (ih _)
    · exact ⟨rfl, rfl, rfl, rfl, rfl, rfl⟩

/-! ## Runs -/

theorem State.run_waiting {s : State} (h : s.awaiting = true) (d : Draw) (ds : List Draw) :
    State.run (d :: ds) s = State.run ds (s.call d) := by
  simp [State.run, h]

theorem State.run_notWaiting {s : State} (h : s.awaiting = false) (ds : List Draw) :
    State.run ds s = s.withDraws ds := by
  cases ds <;> simp [State.run, h]

/-- The answers at the transport port before a run do not matter: a run leaves the ones it did not use. -/
theorem State.call_withDraws (d : Draw) (s : State) (x : List Draw) :
    State.call d (s.withDraws x) = (State.call d s).withDraws x := by
  obtain ⟨p, hp⟩ : ∃ p, s.position = p := ⟨_, rfl⟩
  cases p with
  | nil => cases d <;> simp only [State.call, State.withDraws_position, hp]
  | cons a k =>
    cases a with
    | write v =>
      cases d with
      | ok y =>
        rw [State.call_write_ok hp, State.call_write_ok (s := s.withDraws x) hp]
        exact State.settle_withDraws k (s.wrote v) x
      | err e => simp only [State.call, State.withDraws_position, hp]; rfl
    | readHi =>
      cases d with
      | ok r =>
        rw [State.call_readHi_ok hp, State.call_readHi_ok (s := s.withDraws x) hp]
        exact State.settle_withDraws k ((s.emit (.read r)).setH r) x
      | err e => simp only [State.call, State.withDraws_position, hp]; rfl
    | readLo =>
      cases d with
      | ok r =>
        rw [State.call_readLo_ok hp, State.call_readLo_ok (s := s.withDraws x) hp]
        exact State.settle_withDraws k ((s.emit (.read r)).setL r) x
      | err e => simp only [State.call, State.withDraws_position, hp]; rfl
    | status | testBusy | setPhase _ | setCursor _ | emptyBuffer | answer _ | answerBusy | ret =>
      cases d <;> simp only [State.call, State.withDraws_position, hp]

theorem State.run_withDraws (ds : List Draw) (s : State) (x : List Draw) :
    State.run ds (s.withDraws x) = State.run ds s := by
  induction ds generalizing s with
  | nil => rfl
  | cons d ds ih =>
    simp only [State.run]
    rw [State.call_withDraws, ih]
    rfl

/-- Answers given in two parts: where the first part is used up, the second goes on from there. -/
theorem State.run_append (first more : List Draw) (s : State) :
    State.run (first ++ more) s = State.run ((State.run first s).draws ++ more) (State.run first s) := by
  induction first generalizing s with
  | nil => simp [State.run, State.run_withDraws]
  | cons d first ih =>
    cases h : s.awaiting with
    | true =>
      rw [List.cons_append, State.run_waiting h, State.run_waiting h]
      exact ih _
    | false =>
      rw [State.run_notWaiting h, State.run_notWaiting h]
      exact (State.run_notWaiting (s := s.withDraws (d :: first)) h _).symm

theorem State.run_draws_of_waiting {ds : List Draw} {s : State} (h : (State.run ds s).awaiting = true) :
    (State.run ds s).draws = [] := by
  induction ds generalizing s with
  | nil => rfl
  | cons d ds ih =>
    simp only [State.run] at h ⊢
    split
    · next hw => rw [if_pos hw] at h; exact ih h
    · next hw => rw [if_neg hw] at h; exact absurd h hw

/-! ## One statement at a time -/

theorem State.go_nil (ds : List Draw) (s : State) : State.go ds [] s = (s.goTo []).withDraws ds :=
  State.run_notWaiting (s := s.goTo []) rfl ds

theorem State.go_write_ok (v x : Byte) (ds : List Draw) (k : List Action) (s : State) :
    State.go (.ok x :: ds) (.write v :: k) s = State.go ds k (s.wrote v) :=
  congrArg (State.run ds) (State.settle_goTo k (s.wrote v) (.write v :: k))

theorem State.go_readHi_ok (r : Byte) (ds : List Draw) (k : List Action) (s : State) :
    State.go (.ok r :: ds) (.readHi :: k) s = State.go ds k ((s.emit (.read r)).setH r) :=
  congrArg (State.run ds) (State.settle_goTo k ((s.emit (.read r)).setH r) (.readHi :: k))

theorem State.go_readLo_ok (r : Byte) (ds : List Draw) (k : List Action) (s : State) :
    State.go (.ok r :: ds) (.readLo :: k) s = State.go ds k ((s.emit (.read r)).setL r) :=
  congrArg (State.run ds) (State.settle_goTo k ((s.emit (.read r)).setL r) (.readLo :: k))

theorem State.go_write_err (v : Byte) (e : BusErrInfo) (ds : List Draw) (k : List Action) (s : State) :
    State.go (.err e :: ds) (.write v :: k) s = ((s.writeFailed v).raiseError (.busError e)).withDraws ds :=
  State.run_notWaiting (s := (s.writeFailed v).raiseError (.busError e)) rfl ds

theorem State.go_readHi_err (e : BusErrInfo) (ds : List Draw) (k : List Action) (s : State) :
    State.go (.err e :: ds) (.readHi :: k) s = ((s.emit .readErr).raiseError (.busError e)).withDraws ds :=
  State.run_notWaiting (s := (s.emit .readErr).raiseError (.busError e)) rfl ds

theorem State.go_readLo_err (e : BusErrInfo) (ds : List Draw) (k : List Action) (s : State) :
    State.go (.err e :: ds) (.readLo :: k) s = ((s.emit .readErr).raiseError (.busError e)).withDraws ds :=
  State.run_notWaiting (s := (s.emit .readErr).raiseError (.busError e)) rfl ds

/-- Without an answer the block waits at its call. -/
theorem State.go_noAnswer {a : Action} (h : a.isCall = true) (k : List Action) (s : State) :
    State.go [] (a :: k) s = (s.goTo (a :: k)).withDraws [] := by
  cases a <;> first | rfl | cases h

theorem State.go_status (ds : List Draw) (k : List Action) (s : State) :
    State.go ds (.status :: k) s = State.go ds k (s.setBusy (busyFlag s.H s.L)) := rfl

theorem State.go_testBusy_busy {s : State} (h : s.busy = some true) (ds : List Draw) (k : List Action) :
    State.go ds (.testBusy :: k) s = State.go ds (waitNotBusyCode ++ k) (s.emit (.sleep Config.BACKOFF_MS)) := by
  simp only [State.go, State.settle, h]
  rfl

theorem State.go_testBusy_clear {s : State} (h : s.busy = some false) (ds : List Draw) (k : List Action) :
    State.go ds (.testBusy :: k) s = State.go ds k s := by
  simp only [State.go, State.settle, h]

theorem State.go_setPhase (ds : List Draw) (p : Phase) (k : List Action) (s : State) :
    State.go ds (.setPhase p :: k) s = State.go ds k (s.setPhase p) := rfl

theorem State.go_setCursor (ds : List Draw) (c : Nat) (k : List Action) (s : State) :
    State.go ds (.setCursor c :: k) s = State.go ds k (s.setCursor c) := rfl

theorem State.go_emptyBuffer (ds : List Draw) (k : List Action) (s : State) :
    State.go ds (.emptyBuffer :: k) s = State.go ds k (s.setLbOff 0) := rfl

theorem State.go_answer (ds : List Draw) (v : Option Byte) (k : List Action) (s : State) :
    State.go ds (.answer v :: k) s = (s.finish (.ok v)).withDraws ds :=
  State.run_notWaiting (s := s.finish (.ok v)) rfl ds

theorem State.go_answerBusy {s : State} {b : Bool} (h : s.busy = some b) (ds : List Draw) (k : List Action) :
    State.go ds (.answerBusy :: k) s = (s.finish (.ok (some (busyByte b)))).withDraws ds := by
  simp only [State.go, State.settle, h]
  exact State.run_notWaiting (s := s.finish (.ok (some (busyByte b)))) rfl ds

theorem State.go_ret (ds : List Draw) (k : List Action) (s : State) :
    State.go ds (.ret :: k) s = s.idle.withDraws ds :=
  State.run_notWaiting (s := s.idle) rfl ds

/-! ## The flag -/

/-- Bit 7 of the assembled status byte is bit 7 of the first read byte (R93). -/
theorem busyFlag_reads (r1 r2 : Byte) :
    busyFlag (some (hiNibble r1)) (some (hiNibble r2)) = some (r1.getLsbD 7) := by
  show some ((((r1.extractLsb' 4 4).setWidth 8 <<< 4) ||| (r2.extractLsb' 4 4).setWidth 8 : Byte).getLsbD 7) = _
  simp

/-! ## The lines follow the events -/

@[simp] theorem portFrom_append (p : Option Byte) (evs more : List Event) :
    portFrom p (evs ++ more) = portFrom (portFrom p evs) more := by
  simp [portFrom]

@[simp] theorem portFrom_nil (p : Option Byte) : portFrom p [] = p := rfl
@[simp] theorem portFrom_write (p : Option Byte) (v : Byte) (evs : List Event) :
    portFrom p (.write v :: evs) = portFrom (some v) evs := rfl
@[simp] theorem portFrom_writeErr (p : Option Byte) (v : Byte) (evs : List Event) :
    portFrom p (.writeErr v :: evs) = portFrom none evs := rfl
@[simp] theorem portFrom_read (p : Option Byte) (v : Byte) (evs : List Event) :
    portFrom p (.read v :: evs) = portFrom p evs := rfl
@[simp] theorem portFrom_readErr (p : Option Byte) (evs : List Event) :
    portFrom p (.readErr :: evs) = portFrom p evs := rfl
@[simp] theorem portFrom_sleep (p : Option Byte) (n : Nat) (evs : List Event) :
    portFrom p (.sleep n :: evs) = portFrom p evs := rfl

end Sys2Proof.Machine
end

