-- ==== Sys2Proof/Laws/Code.lean ====
section
/-! SUPPORT. What each piece of the operations' pseudocode does when its calls succeed, as a rewrite of a run: the answers
are used, the events appended, and the rest of the code goes on. -/

namespace Sys2Proof.Machine

open Sys2Proof

/-! ## Bytes of the frames (R91) -/

theorem commandFrame_hi (b : Byte) : nibbleFrame (hiNibble b) false = (b &&& 0xF0#8) ||| 0x0C#8 := by
  decide +revert

theorem commandFrame_hi_low (b : Byte) :
    enableLow (nibbleFrame (hiNibble b) false) = (b &&& 0xF0#8) ||| 0x08#8 := by
  decide +revert

theorem commandFrame_lo (b : Byte) :
    nibbleFrame (loNibble b) false = ((b &&& 0x0F#8) <<< 4) ||| 0x0C#8 := by
  decide +revert

theorem commandFrame_lo_low (b : Byte) :
    enableLow (nibbleFrame (loNibble b) false) = ((b &&& 0x0F#8) <<< 4) ||| 0x08#8 := by
  decide +revert

theorem dataFrame_hi (b : Byte) : nibbleFrame (hiNibble b) true = (b &&& 0xF0#8) ||| 0x0D#8 := by
  decide +revert

theorem dataFrame_hi_low (b : Byte) :
    enableLow (nibbleFrame (hiNibble b) true) = (b &&& 0xF0#8) ||| 0x09#8 := by
  decide +revert

theorem dataFrame_lo (b : Byte) :
    nibbleFrame (loNibble b) true = ((b &&& 0x0F#8) <<< 4) ||| 0x0D#8 := by
  decide +revert

theorem dataFrame_lo_low (b : Byte) :
    enableLow (nibbleFrame (loNibble b) true) = ((b &&& 0x0F#8) <<< 4) ||| 0x09#8 := by
  decide +revert

/-! ## Events that have happened -/

/-- `s` with more events in the trace, the lines following them. -/
def State.did (s : State) (evs : List Event) : State :=
  { s with trace := s.trace ++ evs, port := portFrom s.port evs }

theorem State.wrote_eq_did (s : State) (v : Byte) : s.wrote v = s.did [.write v] := rfl
theorem State.emitRead_eq_did (s : State) (v : Byte) : s.emit (.read v) = s.did [.read v] := rfl
theorem State.emitSleep_eq_did (s : State) (n : Nat) : s.emit (.sleep n) = s.did [.sleep n] := rfl

@[simp] theorem State.did_phase (s : State) (evs : List Event) : (s.did evs).phase = s.phase := rfl
@[simp] theorem State.did_cursor (s : State) (evs : List Event) : (s.did evs).cursor = s.cursor := rfl
@[simp] theorem State.did_lbBuf (s : State) (evs : List Event) : (s.did evs).lbBuf = s.lbBuf := rfl
@[simp] theorem State.did_lbOff (s : State) (evs : List Event) : (s.did evs).lbOff = s.lbOff := rfl
@[simp] theorem State.did_H (s : State) (evs : List Event) : (s.did evs).H = s.H := rfl
@[simp] theorem State.did_L (s : State) (evs : List Event) : (s.did evs).L = s.L := rfl
@[simp] theorem State.did_busy (s : State) (evs : List Event) : (s.did evs).busy = s.busy := rfl
@[simp] theorem State.did_position (s : State) (evs : List Event) : (s.did evs).position = s.position := rfl
@[simp] theorem State.did_port (s : State) (evs : List Event) : (s.did evs).port = portFrom s.port evs := rfl
@[simp] theorem State.did_trace (s : State) (evs : List Event) : (s.did evs).trace = s.trace ++ evs := rfl
@[simp] theorem State.did_response (s : State) (evs : List Event) : (s.did evs).response = s.response := rfl
@[simp] theorem State.did_requests (s : State) (evs : List Event) : (s.did evs).requests = s.requests := rfl
@[simp] theorem State.did_lane (s : State) (evs : List Event) : (s.did evs).lane = s.lane := rfl
@[simp] theorem State.did_draws (s : State) (evs : List Event) : (s.did evs).draws = s.draws := rfl
@[simp] theorem State.did_drawCount (s : State) (evs : List Event) : (s.did evs).drawCount = s.drawCount := rfl
@[simp] theorem State.did_resetLine (s : State) (evs : List Event) : (s.did evs).resetLine = s.resetLine := rfl
@[simp] theorem State.did_rspReady (s : State) (evs : List Event) : (s.did evs).rspReady = s.rspReady := rfl

@[simp] theorem State.did_nil (s : State) : s.did [] = s := by simp [State.did]

@[simp] theorem State.did_did (s : State) (evs more : List Event) : (s.did evs).did more = s.did (evs ++ more) := by
  simp [State.did]

/-! `State.did` commutes with the updates that touch neither the trace nor the lines, and a working register keeps its last
value. -/

@[simp] theorem State.setH_did (s : State) (v : Byte) (evs : List Event) : (s.setH v).did evs = (s.did evs).setH v := rfl
@[simp] theorem State.setL_did (s : State) (v : Byte) (evs : List Event) : (s.setL v).did evs = (s.did evs).setL v := rfl
@[simp] theorem State.setBusy_did (s : State) (b : Option Bool) (evs : List Event) :
    (s.setBusy b).did evs = (s.did evs).setBusy b := rfl
@[simp] theorem State.setPhase_did (s : State) (p : Phase) (evs : List Event) :
    (s.setPhase p).did evs = (s.did evs).setPhase p := rfl
@[simp] theorem State.setCursor_did (s : State) (pos : Nat) (evs : List Event) :
    (s.setCursor pos).did evs = (s.did evs).setCursor pos := rfl
@[simp] theorem State.setL_setH (s : State) (v w : Byte) : (s.setL v).setH w = (s.setH w).setL v := rfl
@[simp] theorem State.setBusy_setH (s : State) (b : Option Bool) (v : Byte) :
    (s.setBusy b).setH v = (s.setH v).setBusy b := rfl
@[simp] theorem State.setBusy_setL (s : State) (b : Option Bool) (v : Byte) :
    (s.setBusy b).setL v = (s.setL v).setBusy b := rfl
@[simp] theorem State.setH_setH (s : State) (v w : Byte) : (s.setH v).setH w = s.setH w := rfl
@[simp] theorem State.setL_setL (s : State) (v w : Byte) : (s.setL v).setL w = s.setL w := rfl
@[simp] theorem State.setBusy_setBusy (s : State) (b c : Option Bool) : (s.setBusy b).setBusy c = s.setBusy c := rfl

/-! ## Pieces of pseudocode -/

/-- The two frames of a nibble (R150). -/
theorem State.go_sendNibble (n : Nibble) (rs : Bool) (w1 w2 : Byte) (ds : List Draw) (k : List Action) (s : State) :
    State.go (.ok w1 :: .ok w2 :: ds) (sendNibbleCode n rs ++ k) s
      = State.go ds k (s.did [.write (nibbleFrame n rs), .write (enableLow (nibbleFrame n rs))]) := by
  simp only [sendNibbleCode, pulseCode, List.cons_append, List.nil_append, State.go_write_ok, State.wrote_eq_did,
    State.did_did]

/-- The four frames of a command byte (R91, R152). -/
theorem State.go_commandByte (b w1 w2 w3 w4 : Byte) (ds : List Draw) (k : List Action) (s : State) :
    State.go (.ok w1 :: .ok w2 :: .ok w3 :: .ok w4 :: ds) (sendByteCode b false ++ k) s
      = State.go ds k (s.did
          [.write ((b &&& 0xF0#8) ||| 0x0C#8), .write ((b &&& 0xF0#8) ||| 0x08#8),
           .write (((b &&& 0x0F#8) <<< 4) ||| 0x0C#8), .write (((b &&& 0x0F#8) <<< 4) ||| 0x08#8)]) := by
  rw [← commandFrame_hi_low, ← commandFrame_hi, ← commandFrame_lo_low, ← commandFrame_lo, sendByteCode,
    List.append_assoc, State.go_sendNibble, State.go_sendNibble, State.did_did]
  rfl

/-- The four frames of a data byte (R91, R154). -/
theorem State.go_dataByte (b w1 w2 w3 w4 : Byte) (ds : List Draw) (k : List Action) (s : State) :
    State.go (.ok w1 :: .ok w2 :: .ok w3 :: .ok w4 :: ds) (sendDataCode b ++ k) s
      = State.go ds k (s.did (dataEvents b)) := by
  rw [dataEvents, ← dataFrame_hi_low, ← dataFrame_hi, ← dataFrame_lo_low, ← dataFrame_lo, sendDataCode, sendByteCode,
    List.append_assoc, State.go_sendNibble, State.go_sendNibble, State.did_did]
  rfl

/-- One status read (R124). -/
theorem State.go_readBusy (q : StatusRead) (ds : List Draw) (k : List Action) (s : State) :
    State.go (q.draws ++ ds) (readBusyCode ++ k) s
      = State.go ds k ((((s.did q.events).setH q.r1).setL q.r2).setBusy (some q.saysBusy)) := by
  have hflag : busyFlag (some (hiNibble q.r1)) (some (hiNibble q.r2)) = some q.saysBusy := busyFlag_reads q.r1 q.r2
  simp only [readBusyCode, StatusRead.draws, List.cons_append, List.nil_append, State.go_write_ok, State.go_readHi_ok,
    State.go_readLo_ok, State.go_status, State.wrote_eq_did, State.emitRead_eq_did, State.did_did, State.setH_did,
    State.setL_H, State.setH_H, State.setL_L, hflag]
  rfl

/-- The poll while every answer says busy (R153). -/
theorem State.go_busyReads (qs : List StatusRead) (hq : ∀ q ∈ qs, q.saysBusy = true) (hne : qs ≠ []) (ds : List Draw)
    (k : List Action) (s : State) :
    ∃ v w, State.go (busyDraws qs ++ ds) (waitNotBusyCode ++ k) s
      = State.go ds (waitNotBusyCode ++ k) ((((s.did (busyEvents qs)).setH v).setL w).setBusy (some true)) := by
  induction qs generalizing s with
  | nil => exact absurd rfl hne
  | cons q qs ih =>
    have hb : q.saysBusy = true := hq q (by simp)
    have hstep : State.go (busyDraws (q :: qs) ++ ds) (waitNotBusyCode ++ k) s
        = State.go (busyDraws qs ++ ds) (waitNotBusyCode ++ k)
            ((((s.did (q.events ++ [.sleep 10])).setH q.r1).setL q.r2).setBusy (some true)) := by
      rw [show busyDraws (q :: qs) = q.draws ++ busyDraws qs from rfl, List.append_assoc,
        show waitNotBusyCode ++ k = readBusyCode ++ (.testBusy :: k) by simp [waitNotBusyCode], State.go_readBusy,
        State.go_testBusy_busy (by simpa using hb), State.emitSleep_eq_did, hb]
      simp [waitNotBusyCode, Config.BACKOFF_MS]
    rw [hstep]
    by_cases hqs : qs = []
    · subst hqs
      exact ⟨q.r1, q.r2, rfl⟩
    · obtain ⟨v, w, e⟩ := ih (fun q' hq' => hq q' (by simp [hq'])) hqs
        ((((s.did (q.events ++ [.sleep 10])).setH q.r1).setL q.r2).setBusy (some true))
      refine ⟨v, w, ?_⟩
      rw [e]
      simp [busyEvents]

/-- A whole command whose poll clears (R152, R153). -/
theorem State.go_sendCommand (cmd : Byte) (c : CommandRun) (hc : c.clears) (ds : List Draw) (k : List Action) (s : State) :
    State.go (c.draws ++ ds) (sendCommandCode cmd ++ k) s
      = State.go ds k ((((s.did (c.events cmd)).setH c.last.r1).setL c.last.r2).setBusy (some false)) := by
  obtain ⟨busy, last, w1, w2, w3, w4⟩ := c
  obtain ⟨hbusy, hlast⟩ := hc
  have htail : ∀ t : State, State.go (last.draws ++ ([.ok w1, .ok w2, .ok w3, .ok w4] ++ ds))
        (waitNotBusyCode ++ (sendByteCode cmd false ++ k)) t
      = State.go ds k ((((t.did (CommandRun.events ⟨[], last, w1, w2, w3, w4⟩ cmd)).setH last.r1).setL
          last.r2).setBusy (some false)) := by
    intro t
    rw [show waitNotBusyCode ++ (sendByteCode cmd false ++ k)
        = readBusyCode ++ (.testBusy :: (sendByteCode cmd false ++ k)) by simp [waitNotBusyCode], State.go_readBusy,
      State.go_testBusy_clear (by simpa using hlast)]
    simp only [List.cons_append, List.nil_append, State.go_commandByte, State.setBusy_did, State.setL_did,
      State.setH_did, State.did_did]
    rw [show last.saysBusy = false from hlast]
    rfl
  simp only [CommandRun.draws, sendCommandCode, List.append_assoc]
  by_cases hb : busy = []
  · subst hb; exact htail s
  · obtain ⟨v, w, e⟩ := State.go_busyReads busy hbusy hb
      (last.draws ++ ([.ok w1, .ok w2, .ok w3, .ok w4] ++ ds)) (sendByteCode cmd false ++ k) s
    rw [e, htail]
    simp [CommandRun.events, busyEvents]

end Sys2Proof.Machine
end

