-- ==== Sys2Proof/Laws/Runs.lean ====
section
/-! SUPPORT. Properties kept along a run: a property of the code still to come and the state is kept by a whole run when each
statement and each answered call keeps it. -/

namespace Sys2Proof.Machine

open Sys2Proof

/-- `J code s` is kept by every statement and every answered call. -/
structure Kept (J : List Action → State → Prop) : Prop where
  goTo : ∀ {c s} p, J c s → J c (s.goTo p)
  withDraws : ∀ {c s} d, J c s → J c (s.withDraws d)
  status : ∀ {k s}, J (.status :: k) s → J k (s.setBusy (busyFlag s.H s.L))
  busy : ∀ {k s}, J (.testBusy :: k) s → s.busy = some true → J (waitNotBusyCode ++ k) (s.emit (.sleep 10))
  clear : ∀ {k s}, J (.testBusy :: k) s → s.busy = some false → J k s
  setPhase : ∀ {k s p}, J (.setPhase p :: k) s → J k (s.setPhase p)
  setCursor : ∀ {k s c}, J (.setCursor c :: k) s → J k (s.setCursor c)
  emptyBuffer : ∀ {k s}, J (.emptyBuffer :: k) s → J k (s.setLbOff 0)
  answer : ∀ {k s v}, J (.answer v :: k) s → J [] (s.finish (.ok v))
  answerBusy : ∀ {k s b}, J (.answerBusy :: k) s → s.busy = some b → J [] (s.finish (.ok (some (busyByte b))))
  ret : ∀ {k s}, J (.ret :: k) s → J [] s.idle
  write : ∀ {k s v}, J (.write v :: k) s → J k (s.wrote v)
  readHi : ∀ {k s r}, J (.readHi :: k) s → J k ((s.emit (.read r)).setH r)
  readLo : ∀ {k s r}, J (.readLo :: k) s → J k ((s.emit (.read r)).setL r)
  writeErr : ∀ {k s v e}, J (.write v :: k) s → J [] ((s.writeFailed v).raiseError (.busError e))
  readHiErr : ∀ {k s e}, J (.readHi :: k) s → J [] ((s.emit .readErr).raiseError (.busError e))
  readLoErr : ∀ {k s e}, J (.readLo :: k) s → J [] ((s.emit .readErr).raiseError (.busError e))

variable {J : List Action → State → Prop}

theorem Kept.settle (h : Kept J) {code : List Action} {s : State} (hj : J code s) :
    J (State.settle code s).position (State.settle code s) := by
  induction code generalizing s with
  | nil => exact h.goTo [] hj
  | cons a k ih =>
    cases a with
    | write v => exact h.goTo _ hj
    | readHi => exact h.goTo _ hj
    | readLo => exact h.goTo _ hj
    | status => exact ih (h.status hj)
    | testBusy =>
      rcases hb : s.busy with _ | _ | _
      · simp only [State.settle, hb]; exact h.goTo _ hj
      · simp only [State.settle, hb]; exact ih (h.clear hj hb)
      · simp only [State.settle, hb]; exact h.goTo _ (h.busy hj hb)
    | setPhase p => exact ih (h.setPhase hj)
    | setCursor c => exact ih (h.setCursor hj)
    | emptyBuffer => exact ih (h.emptyBuffer hj)
    | answer v => exact h.answer hj
    | answerBusy =>
      rcases hb : s.busy with _ | b
      · simp only [State.settle, hb]; exact h.goTo _ hj
      · simp only [State.settle, hb]; exact h.answerBusy hj hb
    | ret => exact h.ret hj

theorem Kept.call (h : Kept J) {s : State} (d : Draw) (hj : J s.position s) : J (s.call d).position (s.call d) := by
  rcases s.call_cases d with ⟨v, k, x, hp, -, hc⟩ | ⟨v, k, e, hp, -, hc⟩ | ⟨k, r, hp, -, hc⟩ | ⟨k, r, hp, -, hc⟩
    | ⟨a, k, e, hp, ha, -, hc⟩ | ⟨-, hc⟩ <;> rw [hc]
  · exact h.settle (h.write (hp ▸ hj))
  · exact h.writeErr (hp ▸ hj)
  · exact h.settle (h.readHi (hp ▸ hj))
  · exact h.settle (h.readLo (hp ▸ hj))
  · rcases ha with rfl | rfl
    · exact h.readHiErr (hp ▸ hj)
    · exact h.readLoErr (hp ▸ hj)
  · exact hj

theorem Kept.run (h : Kept J) {s : State} (ds : List Draw) (hj : J s.position s) :
    J (State.run ds s).position (State.run ds s) := by
  induction ds generalizing s with
  | nil => exact h.withDraws _ hj
  | cons d ds ih =>
    simp only [State.run]
    split
    · exact ih (h.call d hj)
    · exact h.withDraws _ hj

theorem Kept.go (h : Kept J) {code : List Action} {s : State} (ds : List Draw) (hj : J code s) :
    J (State.go ds code s).position (State.go ds code s) :=
  h.run ds (h.settle hj)

/-! ## Events and answers -/

/-- Statements that need no answer add sleeps only. -/
theorem State.settle_trace (code : List Action) (s : State) :
    ∃ evs, (State.settle code s).trace = s.trace ++ evs ∧ evs.filter Event.isCall = [] := by
  induction code generalizing s with
  | nil => exact ⟨[], by simp [State.settle], rfl⟩
  | cons a k ih =>
    cases a with
    | testBusy =>
      rcases hb : s.busy with _ | _ | _
      · exact ⟨[], by simp [State.settle, hb], rfl⟩
      · simpa only [State.settle, hb] using ih s
      · exact ⟨[.sleep Config.BACKOFF_MS], by simp [State.settle, hb], rfl⟩
    | answerBusy =>
      rcases hb : s.busy with _ | b
      · exact ⟨[], by simp [State.settle, hb], rfl⟩
      · exact ⟨[], by simp [State.settle, hb], rfl⟩
    | status => exact ih (s.setBusy (busyFlag s.H s.L))
    | setPhase p => exact ih (s.setPhase p)
    | setCursor c => exact ih (s.setCursor c)
    | emptyBuffer => exact ih (s.setLbOff 0)
    | write v => exact ⟨[], by simp [State.settle], rfl⟩
    | readHi => exact ⟨[], by simp [State.settle], rfl⟩
    | readLo => exact ⟨[], by simp [State.settle], rfl⟩
    | answer v => exact ⟨[], by simp [State.settle], rfl⟩
    | ret => exact ⟨[], by simp [State.settle], rfl⟩

/-- An answered call adds the call event of its answer, and after it sleeps only. -/
theorem State.call_trace {s : State} (d : Draw) (hw : s.awaiting = true) :
    ∃ e evs, (s.call d).trace = s.trace ++ e :: evs ∧ e.isCall = true ∧ e.answeredBy d = true
      ∧ evs.filter Event.isCall = [] := by
  rcases s.call_cases d with ⟨v, k, x, hp, rfl, hc⟩ | ⟨v, k, e, hp, rfl, hc⟩ | ⟨k, r, hp, rfl, hc⟩ | ⟨k, r, hp, rfl, hc⟩
    | ⟨a, k, e, hp, ha, rfl, hc⟩ | ⟨hn, -⟩
  · obtain ⟨evs, ht, hf⟩ := State.settle_trace k (s.wrote v)
    exact ⟨.write v, evs, by rw [hc, ht]; simp [State.wrote], rfl, rfl, hf⟩
  · exact ⟨.writeErr v, [], by rw [hc]; simp [State.writeFailed], rfl, rfl, rfl⟩
  · obtain ⟨evs, ht, hf⟩ := State.settle_trace k ((s.emit (.read r)).setH r)
    exact ⟨.read r, evs, by rw [hc, ht]; simp, rfl, by simp [Event.answeredBy], hf⟩
  · obtain ⟨evs, ht, hf⟩ := State.settle_trace k ((s.emit (.read r)).setL r)
    exact ⟨.read r, evs, by rw [hc, ht]; simp, rfl, by simp [Event.answeredBy], hf⟩
  · exact ⟨.readErr, [], by rw [hc]; simp, rfl, rfl, rfl⟩
  · rw [hw] at hn; cases hn

/-- Every call takes one answer and makes the event of that answer (R72). -/
theorem State.run_trace (ds : List Draw) (s : State) :
    ∃ evs used, (State.run ds s).trace = s.trace ++ evs ∧ ds = used ++ (State.run ds s).draws
      ∧ List.Forall₂ (fun e d => e.answeredBy d = true) (evs.filter Event.isCall) used := by
  induction ds generalizing s with
  | nil => exact ⟨[], [], by simp [State.run], by simp [State.run], .nil⟩
  | cons d ds ih =>
    cases hw : s.awaiting with
    | false =>
      rw [State.run_notWaiting hw]
      exact ⟨[], [], by simp, by simp, .nil⟩
    | true =>
      rw [State.run_waiting hw]
      obtain ⟨e, evs1, ht, he, ha, hf⟩ := State.call_trace d hw
      obtain ⟨evs, used, hr, hd, hl⟩ := ih (s.call d)
      refine ⟨e :: evs1 ++ evs, d :: used, ?_, ?_, ?_⟩
      · rw [hr, ht, List.append_assoc]
      · rw [List.cons_append, ← hd]
      · have hcalls : (e :: evs1 ++ evs).filter Event.isCall = e :: evs.filter Event.isCall := by
          simp [List.filter_append, he, hf]
        rw [hcalls]
        exact .cons ha hl

theorem State.go_trace (ds : List Draw) (code : List Action) (s : State) :
    ∃ evs used, (State.go ds code s).trace = s.trace ++ evs ∧ ds = used ++ (State.go ds code s).draws
      ∧ List.Forall₂ (fun e d => e.answeredBy d = true) (evs.filter Event.isCall) used := by
  obtain ⟨evs1, ht, hf⟩ := State.settle_trace code s
  obtain ⟨evs, used, hr, hd, hl⟩ := State.run_trace ds (State.settle code s)
  refine ⟨evs1 ++ evs, used, ?_, hd, ?_⟩
  · show (State.run ds (State.settle code s)).trace = _
    rw [hr, ht, List.append_assoc]
  · simpa [List.filter_append, hf] using hl

end Sys2Proof.Machine
end

