-- ==== Sys2Proof/Laws/Exec.lean ====
section
/-! SUPPORT. All that an instruction can do when it answers a next state: which pseudocode runs from which state, or which
answer is given at once. -/

namespace Sys2Proof.Machine

open Sys2Proof

/-- The pseudocode an instruction runs. -/
inductive Program : Instr → List Action → Prop
  | init : Program .init (initCode ++ [.answer none])
  | clear : Program .clear (clearCode ++ [.answer none])
  | setCursor (pos : Int) (h : posInRange pos = true) :
      Program (.setCursor pos) (setCursorCode pos.toNat ++ [.answer none])
  | printChar (b : Byte) : Program (.printChar b) (printCharCode b ++ [.answer none])
  | sendCommand (c : Byte) : Program (.sendCommand c) (sendCommandCode c ++ [.answer none])
  | sendData (b : Byte) : Program (.sendData b) (sendDataCode b ++ [.answer none])
  | sendHalfCommand (c : Byte) : Program (.sendHalfCommand c) (sendHalfCommandCode c ++ [.answer none])
  | readBusy : Program .readBusy (readBusyCode ++ [.answerBusy])
  | pulse (b : Byte) (h : b.getLsbD Config.EN_BIT = true) : Program (.pulse b) (pulseCode b ++ [.answer none])
  | flush (text : List Byte) : Program .flush (flushCode text ++ [.ret])
  | frame (n : Nibble) (bl en rs : Bool) : Program (.frame n bl en rs) [.write (packFrame n bl en false rs)]
  | busyProbeHi : Program .busyProbeHi [.write Config.BUSY_PROBE_HI]
  | busyProbeLo : Program .busyProbeLo [.write Config.BUSY_PROBE_LO]
  | lcdFunctionSet4BitHalf : Program .lcdFunctionSet4BitHalf (sendHalfCommandCode Config.CMD_4BIT_HALF ++ [.ret])
  | lcdFunctionSet2Line : Program .lcdFunctionSet2Line (sendCommandCode Config.CMD_FUNCTION_SET ++ [.ret])
  | lcdDisplayOnCursorBlink : Program .lcdDisplayOnCursorBlink (sendCommandCode Config.CMD_DISPLAY_ON ++ [.ret])
  | lcdClear : Program .lcdClear (sendCommandCode Config.CMD_CLEAR ++ [.ret])
  | lcdSetDdramAddr (a : BitVec 7) : Program (.lcdSetDdramAddr a) (sendCommandCode (packDdramCommand a) ++ [.ret])
  | lcdData (d : Byte) : Program (.lcdData d) (sendDataCode d ++ [.ret])
  | append (offset : Nat) (bytes text : List Byte) :
      Program (.append offset bytes) (flushCode text ++ [.answer (some (countByte bytes.length))])

/-- The state APPEND goes on from after its store (R200). -/
def State.stored (s : State) (m : Memory) (n : Nat) : State := (s.setLbBuf m).setLbOff n

/-- The ways in which an idle block answers an instruction with a next state. -/
inductive Answers : Instr → State → State → Prop
  /-- Pseudocode runs. -/
  | runs {i : Instr} {s : State} {code : List Action} (hc : Program i code) (ha : ∀ o bs, i ≠ .append o bs) :
      Answers i s (State.go s.draws code s)
  /-- APPEND stores and flushes. -/
  | flushes {s : State} {offset : Nat} {bytes text : List Byte} {m : Memory} (ho : offset = s.lbOff)
      (hl : offset + bytes.length ≤ Config.BUF_CAP) (hm : lbStore s.lbBuf offset bytes = .ok m) :
      Answers (.append offset bytes) s
        (State.go s.draws (flushCode text ++ [.answer (some (countByte bytes.length))])
          (s.stored m (offset + bytes.length)))
  /-- APPEND stores. -/
  | stores {s : State} {offset : Nat} {bytes : List Byte} {m : Memory} (ho : offset = s.lbOff)
      (hl : offset + bytes.length ≤ Config.BUF_CAP) (hm : lbStore s.lbBuf offset bytes = .ok m) :
      Answers (.append offset bytes) s
        ((s.stored m (offset + bytes.length)).finish (.ok (some (countByte bytes.length))))
  /-- APPEND does not fit. -/
  | overflows {s : State} {offset : Nat} {bytes : List Byte} (hl : Config.BUF_CAP < offset + bytes.length) :
      Answers (.append offset bytes) s ((s.setLbOff 0).raiseError .messageTooLong)
  /-- SET_CURSOR outside its range. -/
  | outOfRange {s : State} {pos : Int} (h : posInRange pos = false) :
      Answers (.setCursor pos) s (s.raiseError .invalidArgument)
  /-- ENCODE. -/
  | encodes {s : State} (n : Nibble) (rs en bl : Bool) :
      Answers (.encode n rs en bl) s (s.finish (.ok (some (encodeFrame n rs en bl))))
  /-- RESPONSE. -/
  | presents {s : State} (r : Response) : Answers (.response r) s (s.finish r)
  /-- READ_BYTE. -/
  | reads {s : State} (h x : Nibble) : Answers (.readByte h x) s (s.takeRead (joinNibbles h x))
  /-- STATUS. -/
  | takes {s : State} (b : Bool) (a : BitVec 7) : Answers (.status b a) s (s.takeStatus (packStatus b a))

theorem answers_perform {i : Instr} {s t : State} {code : List Action} (hp : s.Idle)
    (h : perform code s = .next t) (hc : Program i code) (ha : ∀ o bs, i ≠ .append o bs) : Answers i s t := by
  rw [perform_eq_go hp] at h
  cases h
  exact .runs hc ha

/-- An instruction of an idle block that answers a next state does so in one of those ways. -/
theorem exec_answers {i : Instr} {s t : State} (hp : s.Idle) (h : exec i s = .next t) : Answers i s t := by
  cases i with
  | init => exact answers_perform hp h .init (by simp)
  | clear => exact answers_perform hp h .clear (by simp)
  | setCursor pos =>
    simp only [exec, execSetCursor] at h
    split at h
    · next hr => exact answers_perform hp h (.setCursor pos hr) (by simp)
    · next hr => rw [whenIdle_idle hp] at h; cases h; exact .outOfRange (by simpa using hr)
  | printChar b => exact answers_perform hp h (.printChar b) (by simp)
  | sendCommand c => exact answers_perform hp h (.sendCommand c) (by simp)
  | sendData b => exact answers_perform hp h (.sendData b) (by simp)
  | sendHalfCommand c => exact answers_perform hp h (.sendHalfCommand c) (by simp)
  | readBusy => exact answers_perform hp h .readBusy (by simp)
  | pulse b =>
    simp only [exec, execPulse] at h
    split at h
    · next hb => exact answers_perform hp h (.pulse b hb) (by simp)
    · rw [whenIdle_idle hp] at h; cases h
  | encode n rs en bl =>
    simp only [exec, execEncode, answerNow, whenIdle_idle hp] at h
    cases h
    exact .encodes n rs en bl
  | append o bs =>
    simp only [exec, execAppend, whenIdle_idle hp] at h
    split at h
    · cases h
    · next ho =>
      split at h
      · next hl => cases h; exact .overflows hl
      · next hl =>
        split at h
        · cases h
        · next m hm =>
          unfold appendStored at h
          split at h
          · cases h
          · cases h; exact .stores (by simpa using ho) (by omega) hm
          · rw [perform_eq_go (by exact hp)] at h
            cases h
            exact .flushes (by simpa using ho) (by omega) hm
  | flush =>
    simp only [exec, execFlush, whenIdle_idle hp] at h
    split at h
    · cases h
    · cases h
    · next text _ => exact answers_perform hp h (.flush text) (by simp)
  | reqInvalid op => simp only [exec, execReqInvalid, whenIdle_idle hp] at h; cases h
  | frame n bl en rs => exact answers_perform hp h (.frame n bl en rs) (by simp)
  | busyProbeHi => exact answers_perform hp h .busyProbeHi (by simp)
  | busyProbeLo => exact answers_perform hp h .busyProbeLo (by simp)
  | readByte a x => simp only [exec, execReadByte, whenIdle_idle hp] at h; cases h; exact .reads a x
  | status b a => simp only [exec, execStatus, whenIdle_idle hp] at h; cases h; exact .takes b a
  | lcdFunctionSet4BitHalf => exact answers_perform hp h .lcdFunctionSet4BitHalf (by simp)
  | lcdFunctionSet2Line => exact answers_perform hp h .lcdFunctionSet2Line (by simp)
  | lcdDisplayOnCursorBlink => exact answers_perform hp h .lcdDisplayOnCursorBlink (by simp)
  | lcdClear => exact answers_perform hp h .lcdClear (by simp)
  | lcdSetDdramAddr a => exact answers_perform hp h (.lcdSetDdramAddr a) (by simp)
  | lcdData d => exact answers_perform hp h (.lcdData d) (by simp)
  | response r =>
    simp only [exec, execResponse, answerNow, whenIdle_idle hp] at h
    cases h
    exact .presents r

end Sys2Proof.Machine
end

