-- ==== Sys2Proof/Laws/PerInstr.lean ====
section
/-! SUPPORT. A fact about every instruction's encoding, one lemma per constructor: every item but FLUSH has a word
(30_encoding.md rule R96), and the word of an item that is no response is at most the longest request. -/

namespace Sys2Proof.Laws.EncodeLength

open Sys2Proof

/-- The item has a word exactly when it is not the internal FLUSH, and the word is at most 258 bytes; a response carries the
transport's error value, which has no greatest length (R97). -/
def Statement (i : Instr) : Prop :=
  i.wellFormed = true →
    (encode i = [] ↔ i.format = .internal) ∧ (i.format ≠ .rsp → (encode i).length ≤ longestWord)

/-- A word of one or two bytes. -/
theorem statement_of_short {i : Instr} (h : encode i ≠ []) (hf : i.format ≠ .internal) (hl : (encode i).length ≤ 2) :
    Statement i :=
  fun _ => ⟨⟨fun e => absurd e h, fun e => absurd e hf⟩, fun _ => Nat.le_trans hl (by decide)⟩

theorem init : Statement .init := statement_of_short (by simp [encode]) (by simp [Instr.format]) (by simp [encode])
theorem clear : Statement .clear := statement_of_short (by simp [encode]) (by simp [Instr.format]) (by simp [encode])
theorem setCursor (pos : Int) : Statement (.setCursor pos) :=
  statement_of_short (by simp [encode]) (by simp [Instr.format]) (by simp [encode])
theorem printChar (b : Byte) : Statement (.printChar b) :=
  statement_of_short (by simp [encode]) (by simp [Instr.format]) (by simp [encode])
theorem sendCommand (cmd : Byte) : Statement (.sendCommand cmd) :=
  statement_of_short (by simp [encode]) (by simp [Instr.format]) (by simp [encode])
theorem sendData (b : Byte) : Statement (.sendData b) :=
  statement_of_short (by simp [encode]) (by simp [Instr.format]) (by simp [encode])
theorem sendHalfCommand (cmd : Byte) : Statement (.sendHalfCommand cmd) :=
  statement_of_short (by simp [encode]) (by simp [Instr.format]) (by simp [encode])
theorem readBusy : Statement .readBusy :=
  statement_of_short (by simp [encode]) (by simp [Instr.format]) (by simp [encode])
theorem pulse (base : Byte) : Statement (.pulse base) :=
  statement_of_short (by simp [encode]) (by simp [Instr.format]) (by simp [encode])
theorem encode (nibble : Nibble) (rs en bl : Bool) : Statement (.encode nibble rs en bl) :=
  statement_of_short (by simp [Sys2Proof.encode]) (by simp [Instr.format]) (by simp [Sys2Proof.encode])
theorem append (offset : Nat) (bytes : List Byte) : Statement (.append offset bytes) := by
  intro h
  simp only [Instr.wellFormed, decide_eq_true_eq] at h
  refine ⟨by simp [Sys2Proof.encode, Instr.format], fun _ => ?_⟩
  simp only [Sys2Proof.encode, List.length_cons, longestWord]
  omega
theorem flush : Statement .flush := fun _ => by simp [Sys2Proof.encode, Instr.format]
theorem reqInvalid (op : Byte) : Statement (.reqInvalid op) :=
  statement_of_short (by simp [Sys2Proof.encode]) (by simp [Instr.format]) (by simp [Sys2Proof.encode])
theorem frame (nibble : Nibble) (bl en rs : Bool) : Statement (.frame nibble bl en rs) :=
  statement_of_short (by simp [Sys2Proof.encode]) (by simp [Instr.format]) (by simp [Sys2Proof.encode])
theorem busyProbeHi : Statement .busyProbeHi :=
  statement_of_short (by simp [Sys2Proof.encode]) (by simp [Instr.format]) (by simp [Sys2Proof.encode])
theorem busyProbeLo : Statement .busyProbeLo :=
  statement_of_short (by simp [Sys2Proof.encode]) (by simp [Instr.format]) (by simp [Sys2Proof.encode])
theorem readByte (h x : Nibble) : Statement (.readByte h x) :=
  statement_of_short (by simp [Sys2Proof.encode]) (by simp [Instr.format]) (by simp [Sys2Proof.encode])
theorem status (b : Bool) (a : BitVec 7) : Statement (.status b a) :=
  statement_of_short (by simp [Sys2Proof.encode]) (by simp [Instr.format]) (by simp [Sys2Proof.encode])
theorem lcdFunctionSet4BitHalf : Statement .lcdFunctionSet4BitHalf :=
  statement_of_short (by simp [Sys2Proof.encode]) (by simp [Instr.format]) (by simp [Sys2Proof.encode])
theorem lcdFunctionSet2Line : Statement .lcdFunctionSet2Line :=
  statement_of_short (by simp [Sys2Proof.encode]) (by simp [Instr.format]) (by simp [Sys2Proof.encode])
theorem lcdDisplayOnCursorBlink : Statement .lcdDisplayOnCursorBlink :=
  statement_of_short (by simp [Sys2Proof.encode]) (by simp [Instr.format]) (by simp [Sys2Proof.encode])
theorem lcdClear : Statement .lcdClear :=
  statement_of_short (by simp [Sys2Proof.encode]) (by simp [Instr.format]) (by simp [Sys2Proof.encode])
theorem lcdSetDdramAddr (a : BitVec 7) : Statement (.lcdSetDdramAddr a) :=
  statement_of_short (by simp [Sys2Proof.encode]) (by simp [Instr.format]) (by simp [Sys2Proof.encode])
theorem lcdData (d : Byte) : Statement (.lcdData d) :=
  statement_of_short (by simp [Sys2Proof.encode]) (by simp [Instr.format]) (by simp [Sys2Proof.encode])
theorem response (r : Response) : Statement (.response r) := by
  intro _
  refine ⟨?_, fun h => absurd rfl h⟩
  rcases r with (_ | v) | (e | _ | _) <;> simp [Sys2Proof.encode, encodeResponse, Instr.format]

end Sys2Proof.Laws.EncodeLength
end

