-- ==== Sys2Proof/Laws/Stops.lean ====
section
/-! SUPPORT. Where a run ends when a call fails: for each piece of pseudocode and the answers with which it would succeed, a
failure at any of its calls leaves the events before it, the failed call, and BusError. -/

namespace Sys2Proof.Machine

open Sys2Proof

/-! ## Ends of a run -/

@[simp] theorem State.did_idle (s : State) (evs : List Event) : (s.did evs).idle = s.idle.did evs := rfl

/-- A run that ends after `evs` with error `e`. -/
def State.failed (s : State) (evs : List Event) (e : BusErrInfo) (rest : List Draw) : State :=
  ((s.did evs).raiseError (.busError e)).withDraws rest

theorem State.failed_congr {s t : State} (h : s.idle = t.idle) (evs : List Event) (e : BusErrInfo) (rest : List Draw) :
    s.failed evs e rest = t.failed evs e rest := by
  simp only [State.failed, State.raiseError, State.finish, State.did_idle, h]

theorem State.failed_did (s : State) (evs more : List Event) (e : BusErrInfo) (rest : List Draw) :
    (s.did evs).failed more e rest = s.failed (evs ++ more) e rest := by
  simp only [State.failed, State.did_did]

@[simp] theorem State.failed_setH (s : State) (v : Byte) (evs : List Event) (e : BusErrInfo) (rest : List Draw) :
    (s.setH v).failed evs e rest = s.failed evs e rest := rfl
@[simp] theorem State.failed_setL (s : State) (v : Byte) (evs : List Event) (e : BusErrInfo) (rest : List Draw) :
    (s.setL v).failed evs e rest = s.failed evs e rest := rfl
@[simp] theorem State.failed_setBusy (s : State) (b : Option Bool) (evs : List Event) (e : BusErrInfo)
    (rest : List Draw) : (s.setBusy b).failed evs e rest = s.failed evs e rest := rfl

theorem State.go_write_fail (v : Byte) (e : BusErrInfo) (ds : List Draw) (k : List Action) (s : State) :
    State.go (.err e :: ds) (.write v :: k) s = s.failed [.writeErr v] e ds :=
  State.go_write_err v e ds k s

theorem State.go_readHi_fail (e : BusErrInfo) (ds : List Draw) (k : List Action) (s : State) :
    State.go (.err e :: ds) (.readHi :: k) s = s.failed [.readErr] e ds :=
  State.go_readHi_err e ds k s

theorem State.go_readLo_fail (e : BusErrInfo) (ds : List Draw) (k : List Action) (s : State) :
    State.go (.err e :: ds) (.readLo :: k) s = s.failed [.readErr] e ds :=
  State.go_readLo_err e ds k s

/-! ## Pieces that can fail -/

/-- Further events do not change which call is number `n`. -/
theorem CallAt.before {evs done : List Event} {n : Nat} {call : Event} (h : CallAt evs n done call) (more : List Event) :
    CallAt (evs ++ more) n done call :=
  ⟨h.1.trans (List.prefix_append _ _), h.2⟩

/-- Behind `evs` the calls are numbered on. -/
theorem CallAt.after {more done : List Event} {n : Nat} {call : Event} (h : CallAt more n done call) {evs : List Event}
    {calls : Nat} (hc : (evs.filter Event.isCall).length = calls) : CallAt (evs ++ more) (calls + n) (evs ++ done) call := by
  refine ⟨?_, by simp [hc, h.2.1], h.2.2⟩
  rw [List.append_assoc]
  exact (List.prefix_append_right_inj evs).mpr h.1

@[simp] theorem Event.asFailed_failed {e : Event} (h : e.isCall = true) : e.asFailed.failed = true := by
  cases e <;> first | rfl | cases h

/-- With the answers `D` the piece `code` would make the events `evs`; when its call number `n` fails instead, it stops
there. -/
def Stops (code : List Action) (D : List Draw) (evs : List Event) : Prop :=
  ∀ (n : Nat) (e : BusErrInfo) (rest : List Draw) (k : List Action) (s : State), n < D.length →
    ∃ done call, CallAt evs n done call
      ∧ State.go (D.take n ++ .err e :: rest) (code ++ k) s = s.failed (done ++ [call.asFailed]) e rest

/-- With the answers `D` the piece `code` makes the events `evs` and goes on; it writes no register but the working ones. -/
def Passes (code : List Action) (D : List Draw) (evs : List Event) : Prop :=
  (evs.filter Event.isCall).length = D.length
    ∧ ∀ (ds : List Draw) (k : List Action) (s : State), ∃ u, State.go (D ++ ds) (code ++ k) s = State.go ds k u
      ∧ u.idle = (s.did evs).idle

theorem Passes.nil : Passes [] [] [] := ⟨rfl, fun _ _ s => ⟨s, rfl, by simp⟩⟩

theorem Stops.nil : Stops [] [] [] := fun _ _ _ _ _ h => absurd h (Nat.not_lt_zero _)

theorem Passes.append {c1 c2 : List Action} {D1 D2 : List Draw} {e1 e2 : List Event} (h1 : Passes c1 D1 e1)
    (h2 : Passes c2 D2 e2) : Passes (c1 ++ c2) (D1 ++ D2) (e1 ++ e2) := by
  refine ⟨by simp [h1.1, h2.1], ?_⟩
  intro ds k s
  obtain ⟨u, hu, hi⟩ := h1.2 (D2 ++ ds) (c2 ++ k) s
  obtain ⟨v, hv, hj⟩ := h2.2 ds k u
  refine ⟨v, by rw [List.append_assoc, List.append_assoc, hu, hv], ?_⟩
  rw [hj, State.did_idle, hi]
  simp

theorem Stops.append {c1 c2 : List Action} {D1 D2 : List Draw} {e1 e2 : List Event} (h1 : Stops c1 D1 e1)
    (p1 : Passes c1 D1 e1) (h2 : Stops c2 D2 e2) : Stops (c1 ++ c2) (D1 ++ D2) (e1 ++ e2) := by
  intro n e rest k s hn
  by_cases hlt : n < D1.length
  · obtain ⟨done, call, ha, hg⟩ := h1 n e rest (c2 ++ k) s hlt
    refine ⟨done, call, ha.before _, ?_⟩
    rw [List.take_append_of_le_length (by omega), List.append_assoc, hg]
  · simp only [List.length_append] at hn
    obtain ⟨m, rfl⟩ : ∃ m, n = D1.length + m := ⟨n - D1.length, by omega⟩
    obtain ⟨u, hu, hi⟩ := p1.2 (D2.take m ++ .err e :: rest) (c2 ++ k) s
    obtain ⟨done, call, ha, hg⟩ := h2 m e rest k u (by omega)
    refine ⟨e1 ++ done, call, ha.after p1.1, ?_⟩
    rw [List.take_length_add_append, List.append_assoc, List.append_assoc, hu, hg, State.failed_congr hi,
      State.failed_did, List.append_assoc]

/-- One write. -/
theorem Passes.write (v x : Byte) : Passes [.write v] [.ok x] [.write v] :=
  ⟨rfl, fun ds k s => ⟨s.did [.write v], State.go_write_ok v x ds k s, rfl⟩⟩

theorem Stops.write (v x : Byte) : Stops [.write v] [.ok x] [.write v] := by
  intro n e rest k s hn
  obtain rfl : n = 0 := by simpa using hn
  exact ⟨[], .write v, ⟨List.prefix_refl _, rfl, rfl⟩, State.go_write_fail v e rest k s⟩

/-- The two frames of a nibble (R150). -/
theorem Passes.sendNibble (n : Nibble) (rs : Bool) (w1 w2 : Byte) :
    Passes (sendNibbleCode n rs) [.ok w1, .ok w2] [.write (nibbleFrame n rs), .write (enableLow (nibbleFrame n rs))] :=
  (Passes.write _ w1).append (Passes.write _ w2)

theorem Stops.sendNibble (n : Nibble) (rs : Bool) (w1 w2 : Byte) :
    Stops (sendNibbleCode n rs) [.ok w1, .ok w2] [.write (nibbleFrame n rs), .write (enableLow (nibbleFrame n rs))] :=
  (Stops.write _ w1).append (Passes.write _ w1) (Stops.write _ w2)

/-- The four frames of a command byte (R91, R152). -/
def commandFrames (b : Byte) : List Event :=
  [.write ((b &&& 0xF0#8) ||| 0x0C#8), .write ((b &&& 0xF0#8) ||| 0x08#8),
   .write (((b &&& 0x0F#8) <<< 4) ||| 0x0C#8), .write (((b &&& 0x0F#8) <<< 4) ||| 0x08#8)]

theorem Passes.commandByte (b w1 w2 w3 w4 : Byte) :
    Passes (sendByteCode b false) [.ok w1, .ok w2, .ok w3, .ok w4] (commandFrames b) := by
  have h := (Passes.sendNibble (hiNibble b) false w1 w2).append (Passes.sendNibble (loNibble b) false w3 w4)
  rwa [commandFrame_hi_low, commandFrame_hi, commandFrame_lo_low, commandFrame_lo] at h

theorem Stops.commandByte (b w1 w2 w3 w4 : Byte) :
    Stops (sendByteCode b false) [.ok w1, .ok w2, .ok w3, .ok w4] (commandFrames b) := by
  have h := (Stops.sendNibble (hiNibble b) false w1 w2).append (Passes.sendNibble (hiNibble b) false w1 w2)
    (Stops.sendNibble (loNibble b) false w3 w4)
  rwa [commandFrame_hi_low, commandFrame_hi, commandFrame_lo_low, commandFrame_lo] at h

/-- The four frames of a data byte (R91, R154). -/
theorem Passes.dataByte (b w1 w2 w3 w4 : Byte) :
    Passes (sendDataCode b) [.ok w1, .ok w2, .ok w3, .ok w4] (dataEvents b) := by
  have h := (Passes.sendNibble (hiNibble b) true w1 w2).append (Passes.sendNibble (loNibble b) true w3 w4)
  rwa [dataFrame_hi_low, dataFrame_hi, dataFrame_lo_low, dataFrame_lo] at h

theorem Stops.dataByte (b w1 w2 w3 w4 : Byte) :
    Stops (sendDataCode b) [.ok w1, .ok w2, .ok w3, .ok w4] (dataEvents b) := by
  have h := (Stops.sendNibble (hiNibble b) true w1 w2).append (Passes.sendNibble (hiNibble b) true w1 w2)
    (Stops.sendNibble (loNibble b) true w3 w4)
  rwa [dataFrame_hi_low, dataFrame_hi, dataFrame_lo_low, dataFrame_lo] at h

/-- One status read (R124, R126). -/
theorem Stops.readBusy (q : StatusRead) : Stops readBusyCode q.draws q.events := by
  intro n e rest k s hn
  simp only [StatusRead.draws, List.length_cons, List.length_nil] at hn
  have : n = 0 ∨ n = 1 ∨ n = 2 ∨ n = 3 ∨ n = 4 := by omega
  rcases this with rfl | rfl | rfl | rfl | rfl
  · exact ⟨[], .write 0xFE#8, ⟨⟨_, rfl⟩, rfl, rfl⟩, State.go_write_fail _ _ _ _ _⟩
  · refine ⟨[.write 0xFE#8], .read q.r1, ⟨⟨_, rfl⟩, rfl, rfl⟩, ?_⟩
    simp only [readBusyCode, StatusRead.draws, List.take_succ_cons, List.take_zero, List.cons_append, List.nil_append,
      State.go_write_ok, State.go_readHi_fail, State.wrote_eq_did, State.failed_did]
    rfl
  · refine ⟨[.write 0xFE#8, .read q.r1], .write 0xFA#8, ⟨⟨_, rfl⟩, rfl, rfl⟩, ?_⟩
    simp only [readBusyCode, StatusRead.draws, List.take_succ_cons, List.take_zero, List.cons_append, List.nil_append,
      State.go_write_ok, State.go_readHi_ok, State.go_write_fail, State.emitRead_eq_did, State.wrote_eq_did,
      State.did_did, State.failed_setH, State.failed_did]
    rfl
  · refine ⟨[.write 0xFE#8, .read q.r1, .write 0xFA#8], .write 0xFE#8, ⟨⟨_, rfl⟩, rfl, rfl⟩, ?_⟩
    simp only [readBusyCode, StatusRead.draws, List.take_succ_cons, List.take_zero, List.cons_append, List.nil_append,
      State.go_write_ok, State.go_readHi_ok, State.go_write_fail, State.emitRead_eq_did, State.wrote_eq_did,
      State.did_did, State.setH_did, State.failed_setH, State.failed_did]
    rfl
  · refine ⟨[.write 0xFE#8, .read q.r1, .write 0xFA#8, .write 0xFE#8], .read q.r2, ⟨⟨_, rfl⟩, rfl, rfl⟩, ?_⟩
    simp only [readBusyCode, StatusRead.draws, List.take_succ_cons, List.take_zero, List.cons_append, List.nil_append,
      State.go_write_ok, State.go_readHi_ok, State.go_readLo_fail, State.emitRead_eq_did, State.wrote_eq_did,
      State.did_did, State.setH_did, State.failed_setH, State.failed_did]
    rfl

/-! ## A whole command -/

theorem busyEvents_calls (qs : List StatusRead) :
    ((busyEvents qs).filter Event.isCall).length = (busyDraws qs).length := by
  induction qs with
  | nil => rfl
  | cons q qs ih =>
    rw [show busyEvents (q :: qs) = (q.events ++ [.sleep 10]) ++ busyEvents qs from rfl,
      show busyDraws (q :: qs) = q.draws ++ busyDraws qs from rfl, List.filter_append, List.length_append, ih,
      List.length_append]
    rfl

theorem CommandRun.events_calls (c : CommandRun) (cmd : Byte) :
    ((c.events cmd).filter Event.isCall).length = c.draws.length := by
  simp only [CommandRun.events, CommandRun.draws, List.filter_append, List.length_append, busyEvents_calls]
  rfl

/-- SEND_COMMAND when nothing fails (R152, R153). -/
theorem Passes.sendCommand (cmd : Byte) (c : CommandRun) (hc : c.clears) :
    Passes (sendCommandCode cmd) c.draws (c.events cmd) :=
  ⟨c.events_calls cmd, fun ds k s => ⟨_, State.go_sendCommand cmd c hc ds k s, rfl⟩⟩

/-- SEND_COMMAND when a call fails. -/
theorem Stops.sendCommand (cmd : Byte) (c : CommandRun) (hc : c.clears) :
    Stops (sendCommandCode cmd) c.draws (c.events cmd) := by
  obtain ⟨busy, last, w1, w2, w3, w4⟩ := c
  obtain ⟨hbusy, hlast⟩ := hc
  simp only at hbusy hlast
  induction busy with
  | nil =>
    intro n e rest k s hn
    have hshape : CommandRun.draws ⟨[], last, w1, w2, w3, w4⟩ = last.draws ++ [.ok w1, .ok w2, .ok w3, .ok w4] := rfl
    have hevents : CommandRun.events ⟨[], last, w1, w2, w3, w4⟩ cmd = last.events ++ commandFrames cmd := rfl
    have hcode : sendCommandCode cmd ++ k = readBusyCode ++ (.testBusy :: (sendByteCode cmd false ++ k)) := by
      simp [sendCommandCode, waitNotBusyCode]
    rw [hshape] at hn ⊢
    rw [hevents, hcode]
    by_cases hlt : n < last.draws.length
    · obtain ⟨done, call, ha, hg⟩ := Stops.readBusy last n e rest (.testBusy :: (sendByteCode cmd false ++ k)) s hlt
      exact ⟨done, call, ha.before _, by
        rw [List.take_append_of_le_length (by omega), hg]⟩
    · simp only [List.length_append] at hn
      obtain ⟨m, rfl⟩ : ∃ m, n = last.draws.length + m := ⟨n - last.draws.length, by omega⟩
      obtain ⟨done, call, ha, hg⟩ := Stops.commandByte cmd w1 w2 w3 w4 m e rest k
        ((((s.did last.events).setH last.r1).setL last.r2).setBusy (some last.saysBusy)) (by omega)
      refine ⟨last.events ++ done, call, ha.after rfl, ?_⟩
      rw [List.take_length_add_append, List.append_assoc, State.go_readBusy,
        State.go_testBusy_clear (by simpa using hlast), hg,
        State.failed_setBusy, State.failed_setL, State.failed_setH, State.failed_did, List.append_assoc]
  | cons q busy ih =>
    intro n e rest k s hn
    have hq : q.saysBusy = true := hbusy q (by simp)
    have ih := ih (fun q' hq' => hbusy q' (by simp [hq']))
    have hshape : CommandRun.draws ⟨q :: busy, last, w1, w2, w3, w4⟩
        = q.draws ++ CommandRun.draws ⟨busy, last, w1, w2, w3, w4⟩ := by
      simp [CommandRun.draws, busyDraws]
    have hevents : CommandRun.events ⟨q :: busy, last, w1, w2, w3, w4⟩ cmd
        = (q.events ++ [.sleep 10]) ++ CommandRun.events ⟨busy, last, w1, w2, w3, w4⟩ cmd := by
      simp [CommandRun.events, busyEvents]
    have hcode : sendCommandCode cmd ++ k = readBusyCode ++ (.testBusy :: (sendByteCode cmd false ++ k)) := by
      simp [sendCommandCode, waitNotBusyCode]
    rw [hshape] at hn ⊢
    rw [hevents]
    by_cases hlt : n < q.draws.length
    · obtain ⟨done, call, ha, hg⟩ := Stops.readBusy q n e rest (.testBusy :: (sendByteCode cmd false ++ k)) s hlt
      exact ⟨done, call, (ha.before _).before _, by rw [List.take_append_of_le_length (by omega), hcode, hg]⟩
    · simp only [List.length_append] at hn
      obtain ⟨m, rfl⟩ : ∃ m, n = q.draws.length + m := ⟨n - q.draws.length, by omega⟩
      obtain ⟨done, call, ha, hg⟩ := ih m e rest k
        ((((s.did (q.events ++ [.sleep 10])).setH q.r1).setL q.r2).setBusy (some q.saysBusy)) (by omega)
      refine ⟨(q.events ++ [.sleep 10]) ++ done, call, ha.after rfl, ?_⟩
      rw [List.take_length_add_append, List.append_assoc, hcode, State.go_readBusy,
        State.go_testBusy_busy (by simpa using hq)]
      have hback : ∀ t : State, State.go (List.take m (CommandRun.draws ⟨busy, last, w1, w2, w3, w4⟩) ++ .err e :: rest)
          (waitNotBusyCode ++ (sendByteCode cmd false ++ k)) t
          = State.go (List.take m (CommandRun.draws ⟨busy, last, w1, w2, w3, w4⟩) ++ .err e :: rest)
              (sendCommandCode cmd ++ k) t := by
        intro t
        rw [sendCommandCode, List.append_assoc]
      rw [hback, State.emitSleep_eq_did]
      simp only [State.setBusy_did, State.setL_did, State.setH_did, State.did_did, Config.BACKOFF_MS]
      rw [hg, State.failed_setBusy, State.failed_setL, State.failed_setH, State.failed_did]
      simp only [List.append_assoc]

/-! ## The state after an answer -/

/-- An operation that answers, from the events it made: the working registers are no matter. -/
theorem State.finish_eq_after {s u : State} {evs : List Event} (h : u.idle = (s.did evs).idle)
    (rest : List Draw) (r : Response) : (u.finish r).withDraws rest = s.after evs rest r := by
  simp only [State.finish, h]
  rfl

/-- An internal operation that returns. -/
theorem State.idle_eq_afterItem {s u : State} {evs : List Event} (h : u.idle = (s.did evs).idle)
    (rest : List Draw) : u.idle.withDraws rest = s.afterItem evs rest := by
  simp only [h]
  rfl

/-- The working registers are no matter to an answer. -/
@[simp] theorem State.setH_idle (s : State) (v : Byte) : (s.setH v).idle = s.idle := rfl
@[simp] theorem State.setL_idle (s : State) (v : Byte) : (s.setL v).idle = s.idle := rfl
@[simp] theorem State.setBusy_idle (s : State) (b : Option Bool) : (s.setBusy b).idle = s.idle := rfl

/-! ## The state after a failure -/

@[simp] theorem State.failed_phase (s : State) (evs : List Event) (e : BusErrInfo) (rest : List Draw) :
    (s.failed evs e rest).phase = s.phase := rfl
@[simp] theorem State.failed_cursor (s : State) (evs : List Event) (e : BusErrInfo) (rest : List Draw) :
    (s.failed evs e rest).cursor = s.cursor := rfl
@[simp] theorem State.failed_lbBuf (s : State) (evs : List Event) (e : BusErrInfo) (rest : List Draw) :
    (s.failed evs e rest).lbBuf = s.lbBuf := rfl
@[simp] theorem State.failed_lbOff (s : State) (evs : List Event) (e : BusErrInfo) (rest : List Draw) :
    (s.failed evs e rest).lbOff = s.lbOff := rfl

/-- A run that ends with a failed call is stopped there, seen from any state with the same trace, lines and requests. -/
theorem stoppedAt_failed {s u : State} (hr : u.requests = s.requests) (ht : u.trace = s.trace) (hp : u.port = s.port)
    {done : List Event} {call : Event} {evs : List Event} {n : Nat} (h : CallAt evs n done call) (e : BusErrInfo)
    (rest : List Draw) : StoppedAt s (u.failed (done ++ [call.asFailed]) e rest) evs n e rest := by
  refine ⟨rfl, rfl, rfl, hr, done, call, h, ?_, ?_⟩
  · show u.trace ++ (done ++ [call.asFailed]) = _
    rw [ht, List.append_assoc]
  · show portFrom u.port (done ++ [call.asFailed]) = _
    rw [hp]

end Sys2Proof.Machine
end

