-- ==== Sys2Proof/Laws/Registers.lean ====
section
/-! SUPPORT. Pieces of pseudocode that also write state registers: INIT's five steps and FLUSH, when nothing fails and when
a call fails. -/

namespace Sys2Proof.Machine

open Sys2Proof

/-! ## Register writes as data -/

/-- The state registers a piece of pseudocode has written so far; none is a register left alone. -/
structure Writes where
  phase : Option Phase := none
  cursor : Option Nat := none
  lbOff : Option Nat := none

/-- First `w`, then `x`. -/
def Writes.and (w x : Writes) : Writes where
  phase := x.phase.or w.phase
  cursor := x.cursor.or w.cursor
  lbOff := x.lbOff.or w.lbOff

/-- `s` with those registers written. -/
def State.writes (s : State) (w : Writes) : State :=
  { s with
    phase := w.phase.getD s.phase, cursor := w.cursor.or s.cursor, lbOff := w.lbOff.getD s.lbOff }

@[simp] theorem State.writes_none (s : State) : s.writes {} = s := by cases s; rfl

theorem State.writes_writes (s : State) (w x : Writes) : (s.writes w).writes x = s.writes (w.and x) := by
  obtain ⟨p, c, l⟩ := w
  obtain ⟨p', c', l'⟩ := x
  cases p' <;> cases c' <;> cases l' <;> rfl

@[simp] theorem State.writes_did (s : State) (w : Writes) (evs : List Event) :
    (s.writes w).did evs = (s.did evs).writes w := rfl
@[simp] theorem State.writes_idle (s : State) (w : Writes) : (s.writes w).idle = s.idle.writes w := rfl
theorem State.setPhase_eq_writes (s : State) (p : Phase) : s.setPhase p = s.writes { phase := some p } := by cases s; rfl
theorem State.setCursor_eq_writes (s : State) (c : Nat) : s.setCursor c = s.writes { cursor := some c } := by cases s; rfl
theorem State.setLbOff_eq_writes (s : State) (n : Nat) : s.setLbOff n = s.writes { lbOff := some n } := by cases s; rfl

@[simp] theorem State.writes_failed (s : State) (w : Writes) (evs : List Event) (e : BusErrInfo) (rest : List Draw) :
    (s.writes w).failed evs e rest = (s.failed evs e rest).writes w := rfl

/-! ## Pieces -/

/-- As `Passes`, with the registers the piece writes. -/
def PassesWith (code : List Action) (D : List Draw) (evs : List Event) (w : Writes) : Prop :=
  (evs.filter Event.isCall).length = D.length
    ∧ ∀ (ds : List Draw) (k : List Action) (s : State), ∃ u, State.go (D ++ ds) (code ++ k) s = State.go ds k u
      ∧ u.idle = ((s.did evs).writes w).idle

/-- As `Stops`, with the registers the piece has written when its call number n fails. -/
def StopsWith (code : List Action) (D : List Draw) (evs : List Event) (g : Nat → Writes) : Prop :=
  ∀ (n : Nat) (e : BusErrInfo) (rest : List Draw) (k : List Action) (s : State), n < D.length →
    ∃ done call, CallAt evs n done call
      ∧ State.go (D.take n ++ .err e :: rest) (code ++ k) s = (s.writes (g n)).failed (done ++ [call.asFailed]) e rest

theorem Passes.with {code : List Action} {D : List Draw} {evs : List Event} (h : Passes code D evs) :
    PassesWith code D evs {} :=
  ⟨h.1, fun ds k s => by simpa using h.2 ds k s⟩

theorem Stops.with {code : List Action} {D : List Draw} {evs : List Event} (h : Stops code D evs) :
    StopsWith code D evs (fun _ => {}) :=
  fun n e rest k s hn => by simpa using h n e rest k s hn

theorem PassesWith.append {c1 c2 : List Action} {D1 D2 : List Draw} {e1 e2 : List Event} {w1 w2 : Writes}
    (h1 : PassesWith c1 D1 e1 w1) (h2 : PassesWith c2 D2 e2 w2) :
    PassesWith (c1 ++ c2) (D1 ++ D2) (e1 ++ e2) (w1.and w2) := by
  refine ⟨by simp [h1.1, h2.1], ?_⟩
  intro ds k s
  obtain ⟨u, hu, hi⟩ := h1.2 (D2 ++ ds) (c2 ++ k) s
  obtain ⟨v, hv, hj⟩ := h2.2 ds k u
  refine ⟨v, by rw [List.append_assoc, List.append_assoc, hu, hv], ?_⟩
  rw [hj, State.writes_idle, State.did_idle, hi]
  simp [State.writes_writes]

theorem StopsWith.append {c1 c2 : List Action} {D1 D2 : List Draw} {e1 e2 : List Event} {g1 g2 : Nat → Writes}
    {w1 : Writes} (h1 : StopsWith c1 D1 e1 g1) (p1 : PassesWith c1 D1 e1 w1) (h2 : StopsWith c2 D2 e2 g2) :
    StopsWith (c1 ++ c2) (D1 ++ D2) (e1 ++ e2)
      (fun n => if n < D1.length then g1 n else w1.and (g2 (n - D1.length))) := by
  intro n e rest k s hn
  by_cases hlt : n < D1.length
  · obtain ⟨done, call, ha, hg⟩ := h1 n e rest (c2 ++ k) s hlt
    refine ⟨done, call, ha.before _, ?_⟩
    rw [List.take_append_of_le_length (by omega), List.append_assoc, hg]
    simp only [hlt, if_true]
  · simp only [List.length_append] at hn
    obtain ⟨m, rfl⟩ : ∃ m, n = D1.length + m := ⟨n - D1.length, by omega⟩
    obtain ⟨u, hu, hi⟩ := p1.2 (D2.take m ++ .err e :: rest) (c2 ++ k) s
    obtain ⟨done, call, ha, hg⟩ := h2 m e rest k u (by omega)
    refine ⟨e1 ++ done, call, ha.after p1.1, ?_⟩
    rw [List.take_length_add_append, List.append_assoc, List.append_assoc, hu, hg]
    simp only [hlt, if_false, Nat.add_sub_cancel_left]
    rw [State.writes_failed, State.failed_congr hi, State.writes_failed, State.failed_did, State.writes_failed,
      State.writes_writes, List.append_assoc]

/-- A register write, which needs no answer. -/
theorem PassesWith.write (a : Action) (w : Writes)
    (h : ∀ ds k s, State.go ds (a :: k) s = State.go ds k (s.writes w)) : PassesWith [a] [] [] w :=
  ⟨rfl, fun ds k s => ⟨s.writes w, h ds k s, by simp⟩⟩

theorem StopsWith.noCall (code : List Action) (g : Nat → Writes) : StopsWith code [] [] g :=
  fun _ _ _ _ _ h => absurd h (Nat.not_lt_zero _)

theorem PassesWith.setPhase (p : Phase) : PassesWith [.setPhase p] [] [] { phase := some p } :=
  PassesWith.write _ _ fun ds k s => by rw [State.go_setPhase, State.setPhase_eq_writes]

theorem PassesWith.setCursor (c : Nat) : PassesWith [.setCursor c] [] [] { cursor := some c } :=
  PassesWith.write _ _ fun ds k s => by rw [State.go_setCursor, State.setCursor_eq_writes]

theorem PassesWith.emptyBuffer : PassesWith [.emptyBuffer] [] [] { lbOff := some 0 } :=
  PassesWith.write _ _ fun ds k s => by rw [State.go_emptyBuffer, State.setLbOff_eq_writes]

theorem PassesWith.congr {code : List Action} {D D' : List Draw} {evs evs' : List Event} {w w' : Writes}
    (h : PassesWith code D evs w) (hD : D = D') (hE : evs = evs') (hw : w = w') : PassesWith code D' evs' w' := by
  subst hD hE hw; exact h

theorem StopsWith.congr {code : List Action} {D D' : List Draw} {evs evs' : List Event} {g g' : Nat → Writes}
    (h : StopsWith code D evs g) (hD : D = D') (hE : evs = evs') (hg : ∀ n, n < D.length → g n = g' n) :
    StopsWith code D' evs' g' := by
  subst hD hE
  intro n e rest k s hn
  rw [← hg n hn]
  exact h n e rest k s hn

/-! ## CLEAR and SET_CURSOR as steps (R173, R174) -/

theorem PassesWith.clear (c : CommandRun) (hc : c.clears) :
    PassesWith clearCode c.draws (c.events 0x01#8) { cursor := some 0 } :=
  ((Passes.sendCommand _ c hc).with.append (PassesWith.setCursor 0)).congr (by simp) (by simp [Config.CMD_CLEAR]) rfl

theorem StopsWith.clear (c : CommandRun) (hc : c.clears) :
    StopsWith clearCode c.draws (c.events 0x01#8) (fun _ => {}) :=
  ((Stops.sendCommand _ c hc).with.append (Passes.sendCommand _ c hc).with (StopsWith.noCall _ (fun _ => {}))).congr
    (by simp) (by simp [Config.CMD_CLEAR]) (fun n hn => by
      simp only [List.append_nil] at hn
      rw [if_pos hn])

theorem PassesWith.moveTo (pos : Nat) (c : CommandRun) (hc : c.clears) :
    PassesWith (setCursorCode pos) c.draws (c.events (cursorCommand pos)) { cursor := some pos } :=
  ((Passes.sendCommand _ c hc).with.append (PassesWith.setCursor pos)).congr (by simp) (by simp) rfl

theorem StopsWith.moveTo (pos : Nat) (c : CommandRun) (hc : c.clears) :
    StopsWith (setCursorCode pos) c.draws (c.events (cursorCommand pos)) (fun _ => {}) :=
  ((Stops.sendCommand _ c hc).with.append (Passes.sendCommand _ c hc).with (StopsWith.noCall _ (fun _ => {}))).congr
    (by simp) (by simp) (fun n hn => by
      simp only [List.append_nil] at hn
      rw [if_pos hn])

/-! ## INIT (R171, R172) -/

theorem PassesWith.init (r : InitRun) (hr : r.clears) :
    PassesWith initCode r.draws r.events { phase := some .ready, cursor := some 0 } := by
  obtain ⟨h1, h2, h3, h4⟩ := hr
  have p0 := (PassesWith.setPhase .uninitialized).append (Passes.sendNibble (hiNibble Config.CMD_4BIT_HALF) false r.w1 r.w2).with
  have p1 := (p0.append (PassesWith.setPhase .functionSetPending)).append
    (Passes.sendCommand Config.CMD_FUNCTION_SET r.functionSet h1).with
  have p2 := (p1.append (PassesWith.setPhase .twoLineModePending)).append
    (Passes.sendCommand Config.CMD_DISPLAY_ON r.displayOn h2).with
  have p3 := (p2.append (PassesWith.setPhase .displayOnPending)).append (PassesWith.clear r.clear h3)
  have p4 := ((p3.append (PassesWith.setPhase .cleared)).append (PassesWith.moveTo 0 r.home h4)).append
    (PassesWith.setPhase .ready)
  refine p4.congr ?_ ?_ rfl
  · simp only [InitRun.draws, List.append_nil, List.nil_append]
  · simp only [InitRun.events, List.append_nil, List.nil_append]
    rfl

/-- The phase that a failing call number n of INIT leaves, and whether the cursor has been written. -/
def InitRun.reached (r : InitRun) (n : Nat) : Writes :=
  if n < 2 then { phase := some .uninitialized }
  else if n < 2 + r.functionSet.draws.length then { phase := some .functionSetPending }
  else if n < 2 + r.functionSet.draws.length + r.displayOn.draws.length then { phase := some .twoLineModePending }
  else if n < 2 + r.functionSet.draws.length + r.displayOn.draws.length + r.clear.draws.length then
    { phase := some .displayOnPending }
  else { phase := some .cleared, cursor := some 0 }

theorem StopsWith.init (r : InitRun) (hr : r.clears) : StopsWith initCode r.draws r.events r.reached := by
  obtain ⟨h1, h2, h3, h4⟩ := hr
  have p0 := (PassesWith.setPhase .uninitialized).append (Passes.sendNibble (hiNibble Config.CMD_4BIT_HALF) false r.w1 r.w2).with
  have s0 := (StopsWith.noCall [.setPhase .uninitialized] (fun _ => {})).append (PassesWith.setPhase .uninitialized)
    (Stops.sendNibble (hiNibble Config.CMD_4BIT_HALF) false r.w1 r.w2).with
  have p0' := p0.append (PassesWith.setPhase .functionSetPending)
  have s0' := s0.append p0 (StopsWith.noCall [.setPhase .functionSetPending] (fun _ => {}))
  have p1 := p0'.append (Passes.sendCommand Config.CMD_FUNCTION_SET r.functionSet h1).with
  have s1 := s0'.append p0' (Stops.sendCommand Config.CMD_FUNCTION_SET r.functionSet h1).with
  have p1' := p1.append (PassesWith.setPhase .twoLineModePending)
  have s1' := s1.append p1 (StopsWith.noCall [.setPhase .twoLineModePending] (fun _ => {}))
  have p2 := p1'.append (Passes.sendCommand Config.CMD_DISPLAY_ON r.displayOn h2).with
  have s2 := s1'.append p1' (Stops.sendCommand Config.CMD_DISPLAY_ON r.displayOn h2).with
  have p2' := p2.append (PassesWith.setPhase .displayOnPending)
  have s2' := s2.append p2 (StopsWith.noCall [.setPhase .displayOnPending] (fun _ => {}))
  have p3 := p2'.append (PassesWith.clear r.clear h3)
  have s3 := s2'.append p2' (StopsWith.clear r.clear h3)
  have p3' := p3.append (PassesWith.setPhase .cleared)
  have s3' := s3.append p3 (StopsWith.noCall [.setPhase .cleared] (fun _ => {}))
  have p4 := p3'.append (PassesWith.moveTo 0 r.home h4)
  have s4 := s3'.append p3' (StopsWith.moveTo 0 r.home h4)
  have s5 := s4.append p4 (StopsWith.noCall [.setPhase .ready] (fun _ => {}))
  refine s5.congr ?_ ?_ ?_
  · simp only [InitRun.draws, List.append_nil, List.nil_append]
  · simp only [InitRun.events, List.append_nil, List.nil_append]
    rfl
  · intro n hn
    simp only [InitRun.reached, List.append_nil, List.nil_append, List.length_append, List.length_cons,
      List.length_nil] at hn ⊢
    repeat' split
    all_goals first | rfl | omega

/-! ## FLUSH (R203, R204) -/

theorem printLoopCode_line2 (text : List Byte) {i : Nat} (h : Config.COLUMNS < i) :
    printLoopCode i text = text.flatMap printCharCode := by
  induction text generalizing i with
  | nil => rfl
  | cons b text ih => simp [printLoopCode, Nat.ne_of_gt h, ih (Nat.lt_succ_of_lt h)]

/-- The character loop is the characters of line 1, the reposition where a 17th character follows, and those of line 2. -/
theorem printLoopCode_lines (text : List Byte) {i : Nat} (h : i ≤ Config.COLUMNS) :
    printLoopCode i text
      = (text.take (Config.COLUMNS - i)).flatMap printCharCode
        ++ (if Config.COLUMNS - i < text.length then setCursorCode Config.COLUMNS else [])
        ++ (text.drop (Config.COLUMNS - i)).flatMap printCharCode := by
  induction text generalizing i with
  | nil => simp [printLoopCode]
  | cons b text ih =>
    by_cases hi : i = Config.COLUMNS
    · subst hi
      simp [printLoopCode, printLoopCode_line2 text (Nat.lt_succ_self _)]
    · have hsub : Config.COLUMNS - i = (Config.COLUMNS - (i + 1)) + 1 := by omega
      rw [hsub]
      simp only [printLoopCode, hi, if_false, List.take_succ_cons, List.drop_succ_cons, List.flatMap_cons,
        List.length_cons, Nat.add_lt_add_iff_right, List.nil_append]
      rw [ih (by omega)]
      simp only [List.append_assoc]

theorem Passes.characters (text vs : List Byte) (h : vs.length = 4 * text.length) :
    Passes (text.flatMap printCharCode) (vs.map .ok) (text.flatMap dataEvents) := by
  induction text generalizing vs with
  | nil =>
    obtain rfl : vs = [] := List.length_eq_zero_iff.mp (by simpa using h)
    exact Passes.nil
  | cons b text ih =>
    match vs, h with
    | v1 :: v2 :: v3 :: v4 :: vs, h =>
      exact (Passes.dataByte b v1 v2 v3 v4).append (ih vs (by simp only [List.length_cons] at h; omega))

theorem Stops.characters (text vs : List Byte) (h : vs.length = 4 * text.length) :
    Stops (text.flatMap printCharCode) (vs.map .ok) (text.flatMap dataEvents) := by
  induction text generalizing vs with
  | nil =>
    obtain rfl : vs = [] := List.length_eq_zero_iff.mp (by simpa using h)
    exact Stops.nil
  | cons b text ih =>
    match vs, h with
    | v1 :: v2 :: v3 :: v4 :: vs, h =>
      exact (Stops.dataByte b v1 v2 v3 v4).append (Passes.dataByte b v1 v2 v3 v4)
        (ih vs (by simp only [List.length_cons] at h; omega))

/-- The cursor that a whole flush of `k` characters leaves (R203). -/
def flushCursor (k : Nat) : Nat := if 16 < k then 16 else 0

theorem PassesWith.flush (text : List Byte) (f : FlushRun) (hf : f.fits text.length) :
    PassesWith (flushCode text) (f.draws text.length) (f.events text)
      { cursor := some (flushCursor text.length), lbOff := some 0 } := by
  obtain ⟨h1, h2, h3, h4, h5⟩ := hf
  have l1 : f.line1.length = 4 * (text.take 16).length := by rw [h4, List.length_take, Nat.min_comm]
  have l2 : f.line2.length = 4 * (text.drop 16).length := by rw [h5, List.length_drop]
  have p1 := ((PassesWith.clear f.clear h1).append (PassesWith.moveTo 0 f.home h2)).append
    (Passes.characters (text.take 16) f.line1 l1).with
  by_cases hw : 16 < text.length
  · have p2 := ((p1.append (PassesWith.moveTo 16 f.wrap h3)).append
      (Passes.characters (text.drop 16) f.line2 l2).with).append PassesWith.emptyBuffer
    have hcode : flushCode text = clearCode ++ setCursorCode 0 ++ (text.take 16).flatMap printCharCode
        ++ setCursorCode 16 ++ (text.drop 16).flatMap printCharCode ++ [.emptyBuffer] := by
      simp only [flushCode, printLoopCode_lines text (Nat.zero_le _), Config.COLUMNS, Nat.sub_zero, hw, if_true,
        List.append_assoc]
    rw [hcode]
    refine p2.congr ?_ ?_ ?_
    · simp only [FlushRun.draws, hw, if_true, List.append_nil]
    · simp only [FlushRun.events, hw, if_true, List.append_nil]
      rfl
    · simp only [flushCursor, hw, if_true]
      rfl
  · have p2 := (p1.append (Passes.characters (text.drop 16) f.line2 l2).with).append PassesWith.emptyBuffer
    have hcode : flushCode text = clearCode ++ setCursorCode 0 ++ (text.take 16).flatMap printCharCode
        ++ (text.drop 16).flatMap printCharCode ++ [.emptyBuffer] := by
      simp only [flushCode, printLoopCode_lines text (Nat.zero_le _), Config.COLUMNS, Nat.sub_zero, hw, if_false,
        List.append_assoc, List.nil_append]
    rw [hcode]
    refine p2.congr ?_ ?_ ?_
    · simp only [FlushRun.draws, hw, if_false, List.append_nil]
    · simp only [FlushRun.events, hw, if_false, List.append_nil]
      rfl
    · simp only [flushCursor, hw, if_false]
      rfl

/-- What the completed CLEAR and SET_CURSOR calls have written when call number n of a flush of `k` characters fails. -/
def FlushRun.reached (f : FlushRun) (k n : Nat) : Writes :=
  if n < f.clear.draws.length then {}
  else if 16 < k ∧ f.clear.draws.length + f.home.draws.length + 64 + f.wrap.draws.length ≤ n then { cursor := some 16 }
  else { cursor := some 0 }

theorem StopsWith.flush (text : List Byte) (f : FlushRun) (hf : f.fits text.length) :
    StopsWith (flushCode text) (f.draws text.length) (f.events text) (f.reached text.length) := by
  obtain ⟨h1, h2, h3, h4, h5⟩ := hf
  have l1 : f.line1.length = 4 * (text.take 16).length := by rw [h4, List.length_take, Nat.min_comm]
  have l2 : f.line2.length = 4 * (text.drop 16).length := by rw [h5, List.length_drop]
  have p0 := PassesWith.clear f.clear h1
  have s0 := StopsWith.clear f.clear h1
  have p1 := p0.append (PassesWith.moveTo 0 f.home h2)
  have s1 := s0.append p0 (StopsWith.moveTo 0 f.home h2)
  have p2 := p1.append (Passes.characters (text.take 16) f.line1 l1).with
  have s2 := s1.append p1 (Stops.characters (text.take 16) f.line1 l1).with
  by_cases hw : 16 < text.length
  · have p3 := p2.append (PassesWith.moveTo 16 f.wrap h3)
    have s3 := s2.append p2 (StopsWith.moveTo 16 f.wrap h3)
    have p4 := p3.append (Passes.characters (text.drop 16) f.line2 l2).with
    have s4 := (s3.append p3 (Stops.characters (text.drop 16) f.line2 l2).with).append p4
      (StopsWith.noCall [.emptyBuffer] (fun _ => {}))
    have hcode : flushCode text = clearCode ++ setCursorCode 0 ++ (text.take 16).flatMap printCharCode
        ++ setCursorCode 16 ++ (text.drop 16).flatMap printCharCode ++ [.emptyBuffer] := by
      simp only [flushCode, printLoopCode_lines text (Nat.zero_le _), Config.COLUMNS, Nat.sub_zero, hw, if_true,
        List.append_assoc]
    rw [hcode]
    have hl : f.line1.length = 64 := by rw [h4, Nat.min_eq_right (by omega)]
    refine s4.congr ?_ ?_ ?_
    · simp only [FlushRun.draws, hw, if_true, List.append_nil]
    · simp only [FlushRun.events, hw, if_true, List.append_nil]
      rfl
    · intro n hn
      simp only [FlushRun.reached, hw, true_and, List.append_nil, List.length_append, List.length_map, hl] at hn ⊢
      repeat' split
      all_goals first | rfl | omega
  · have s3 := (s2.append p2 (Stops.characters (text.drop 16) f.line2 l2).with).append
      (p2.append (Passes.characters (text.drop 16) f.line2 l2).with) (StopsWith.noCall [.emptyBuffer] (fun _ => {}))
    have hcode : flushCode text = clearCode ++ setCursorCode 0 ++ (text.take 16).flatMap printCharCode
        ++ (text.drop 16).flatMap printCharCode ++ [.emptyBuffer] := by
      simp only [flushCode, printLoopCode_lines text (Nat.zero_le _), Config.COLUMNS, Nat.sub_zero, hw, if_false,
        List.append_assoc, List.nil_append]
    rw [hcode]
    refine s3.congr ?_ ?_ ?_
    · simp only [FlushRun.draws, hw, if_false, List.append_nil]
    · simp only [FlushRun.events, hw, if_false, List.append_nil]
      rfl
    · intro n hn
      simp only [FlushRun.reached, hw, false_and, if_false, List.append_nil, List.length_append, List.length_map] at hn ⊢
      repeat' split
      all_goals first | rfl | omega

end Sys2Proof.Machine
end

