-- ==== Sys2Proof/Laws/Polls.lean ====
section
/-! SUPPORT. Where a run stands when every status read so far has said busy, and how INIT and FLUSH come to each of their
polls. -/

namespace Sys2Proof.Machine

open Sys2Proof

/-- After busy answers only, the block waits at the next status read with nothing but events and working registers changed. -/
theorem State.go_busyReads_end (qs : List StatusRead) (hq : ∀ q ∈ qs, q.saysBusy = true) (k : List Action) (s : State) :
    ∃ H L b, State.go (busyDraws qs) (waitNotBusyCode ++ k) s
        = ({ (s.did (busyEvents qs)) with H := H, L := L, busy := b }.goTo (waitNotBusyCode ++ k)).withDraws []
      ∧ (qs ≠ [] → b = some true) := by
  by_cases hne : qs = []
  · subst hne
    refine ⟨s.H, s.L, s.busy, ?_, fun h => absurd rfl h⟩
    show State.go [] (.write _ :: _) s = _
    rw [State.go_noAnswer rfl]
    simp [busyEvents]
    rfl
  · obtain ⟨v, w, hgo⟩ := State.go_busyReads qs hq hne [] k s
    rw [List.append_nil] at hgo
    refine ⟨some (hiNibble v), some (hiNibble w), some true, ?_, fun _ => rfl⟩
    rw [hgo]
    show State.go [] (.write _ :: _) _ = _
    rw [State.go_noAnswer rfl]
    rfl

/-- The lines after a status read and its sleep are the busy probe's (R267). -/
theorem portFrom_busyEvents (qs : List StatusRead) (hne : qs ≠ []) (p : Option Byte) :
    portFrom p (busyEvents qs) = some 0xFE#8 := by
  induction qs generalizing p with
  | nil => exact absurd rfl hne
  | cons q qs ih =>
    rw [show busyEvents (q :: qs) = (q.events ++ [.sleep 10]) ++ busyEvents qs from rfl, portFrom_append]
    by_cases h : qs = []
    · subst h; rfl
    · exact ih h _

/-- `code` comes to the poll `p`: it is a piece that uses `p`'s answers, makes its events and writes its registers, and then
a wait. -/
def ComesTo (code : List Action) (p : PollPoint) : Prop :=
  ∃ before k, code = before ++ (waitNotBusyCode ++ k)
    ∧ PassesWith before p.draws p.events { phase := p.phase, cursor := p.cursor }

theorem ComesTo.append {code : List Action} {p : PollPoint} (h : ComesTo code p) (more : List Action) :
    ComesTo (code ++ more) p := by
  obtain ⟨before, k, rfl, hp⟩ := h
  exact ⟨before, k ++ more, by simp only [List.append_assoc], hp⟩

/-- A piece before the wait of a command. -/
theorem ComesTo.command {before : List Action} {p : PollPoint}
    (h : PassesWith before p.draws p.events { phase := p.phase, cursor := p.cursor }) (cmd : Byte) (k : List Action) :
    ComesTo (before ++ (sendCommandCode cmd ++ k)) p :=
  ⟨before, sendByteCode cmd false ++ k, by simp only [sendCommandCode, List.append_assoc], h⟩

theorem PassesWith.nil : PassesWith [] [] [] {} := Passes.nil.with

/-- SEND_COMMAND begins with a poll. -/
theorem ComesTo.sendCommand (cmd : Byte) : ComesTo (sendCommandCode cmd) ⟨[], [], none, none⟩ := by
  simpa using ComesTo.command (p := ⟨[], [], none, none⟩) PassesWith.nil cmd []

/-- INIT comes to the polls of its steps 2 to 5 (R171). -/
theorem ComesTo.init (r : InitRun) (hr : r.clears) : ∀ p ∈ r.polls, ComesTo initCode p := by
  obtain ⟨h1, h2, h3, h4⟩ := hr
  have p2 := ((PassesWith.setPhase .uninitialized).append
    (Passes.sendNibble (hiNibble Config.CMD_4BIT_HALF) false r.w1 r.w2).with).append (PassesWith.setPhase .functionSetPending)
  have p3 := (p2.append (Passes.sendCommand Config.CMD_FUNCTION_SET r.functionSet h1).with).append
    (PassesWith.setPhase .twoLineModePending)
  have p4 := (p3.append (Passes.sendCommand Config.CMD_DISPLAY_ON r.displayOn h2).with).append
    (PassesWith.setPhase .displayOnPending)
  have p5 := (p4.append (PassesWith.clear r.clear h3)).append (PassesWith.setPhase .cleared)
  have hstep : ∀ {c1 : List Action} {D D' : List Draw} {evs evs' : List Event} {w : Writes} (ph : Phase) (c : Option Nat)
      (cmd : Byte) (c2 : List Action), PassesWith c1 D evs w → D = D' → evs = evs' → w = { phase := some ph, cursor := c } →
      initCode = c1 ++ (sendCommandCode cmd ++ c2) → ComesTo initCode ⟨D', evs', some ph, c⟩ := by
    intro c1 D D' evs evs' w ph c cmd c2 h hd he hw hcode
    rw [hcode]
    exact ComesTo.command (h.congr hd he hw) cmd c2
  intro p hp
  simp only [InitRun.polls, List.mem_cons, List.not_mem_nil, or_false] at hp
  rcases hp with rfl | rfl | rfl | rfl
  · refine hstep .functionSetPending none Config.CMD_FUNCTION_SET ([.setPhase .twoLineModePending] ++ (sendCommandCode Config.CMD_DISPLAY_ON
      ++ ([.setPhase .displayOnPending] ++ (clearCode ++ ([.setPhase .cleared] ++ (setCursorCode 0
      ++ [.setPhase .ready])))))) p2 ?_ ?_ ?_ ?_
    · simp only [List.append_nil, List.nil_append]
    · simp only [List.append_nil, List.nil_append]; rfl
    · rfl
    · simp only [initCode, sendHalfCommandCode, List.append_assoc]
  · refine hstep .twoLineModePending none Config.CMD_DISPLAY_ON ([.setPhase .displayOnPending] ++ (clearCode ++ ([.setPhase .cleared]
      ++ (setCursorCode 0 ++ [.setPhase .ready])))) p3 ?_ ?_ ?_ ?_
    · simp only [List.append_nil, List.nil_append]
    · simp only [List.append_nil, List.nil_append]; rfl
    · rfl
    · simp only [initCode, sendHalfCommandCode, List.append_assoc]
  · refine hstep .displayOnPending none Config.CMD_CLEAR ([.setCursor 0] ++ ([.setPhase .cleared] ++ (setCursorCode 0 ++ [.setPhase .ready]))) p4
      ?_ ?_ ?_ ?_
    · simp only [List.append_nil, List.nil_append]
    · simp only [List.append_nil, List.nil_append]; rfl
    · rfl
    · simp only [initCode, clearCode, sendHalfCommandCode, List.append_assoc]
  · refine hstep .cleared (some 0) (cursorCommand 0) ([.setCursor 0] ++ [.setPhase .ready]) p5 ?_ ?_ ?_ ?_
    · simp only [List.append_nil, List.nil_append]
    · simp only [List.append_nil, List.nil_append]; rfl
    · rfl
    · simp only [initCode, setCursorCode, sendHalfCommandCode, List.append_assoc]

/-- A flush comes to its polls (R203, R204). -/
theorem ComesTo.flush (text : List Byte) (f : FlushRun) (hf : f.fits text.length) :
    ∀ p ∈ f.polls text, ComesTo (flushCode text) p := by
  obtain ⟨h1, h2, -, h4, -⟩ := hf
  have l1 : f.line1.length = 4 * (text.take 16).length := by rw [h4, List.length_take, Nat.min_comm]
  have p2 := PassesWith.clear f.clear h1
  have p3 := (p2.append (PassesWith.moveTo 0 f.home h2)).append (Passes.characters (text.take 16) f.line1 l1).with
  intro p hp
  simp only [FlushRun.polls, List.mem_append, List.mem_cons, List.not_mem_nil, or_false] at hp
  rcases hp with (rfl | rfl) | hp
  · have hcode : flushCode text = sendCommandCode Config.CMD_CLEAR
        ++ ([.setCursor 0] ++ (setCursorCode 0 ++ (printLoopCode 0 text ++ [.emptyBuffer]))) := by
      simp only [flushCode, clearCode, List.append_assoc]
    rw [hcode]
    exact (ComesTo.sendCommand Config.CMD_CLEAR).append _
  · have h := ComesTo.command (p := ⟨f.clear.draws, f.clear.events 0x01#8, none, some 0⟩) p2 (cursorCommand 0)
      ([.setCursor 0] ++ (printLoopCode 0 text ++ [.emptyBuffer]))
    simpa only [flushCode, setCursorCode, List.append_assoc] using h
  · split at hp
    · next hw =>
      obtain rfl := List.mem_singleton.mp hp
      have h := ComesTo.command
        (p := ⟨f.clear.draws ++ f.home.draws ++ f.line1.map .ok,
          f.clear.events 0x01#8 ++ f.home.events 0x80#8 ++ (text.take 16).flatMap dataEvents, none, some 0⟩)
        p3 (cursorCommand 16) ([.setCursor 16] ++ ((text.drop 16).flatMap printCharCode ++ [.emptyBuffer]))
      have hcode : flushCode text = clearCode ++ setCursorCode 0 ++ (text.take 16).flatMap printCharCode
          ++ (sendCommandCode (cursorCommand 16) ++ ([.setCursor 16]
            ++ ((text.drop 16).flatMap printCharCode ++ [.emptyBuffer]))) := by
        simp only [flushCode, printLoopCode_lines text (Nat.zero_le _), Config.COLUMNS, Nat.sub_zero, hw, if_true,
          setCursorCode, List.append_assoc]
      rw [hcode]
      exact h
    · cases hp

end Sys2Proof.Machine
end

