-- ==== Sys2Proof/Laws/Programs.lean ====
section
/-! SUPPORT. What every statement of the operations' pseudocode is like, and properties of the state that a run keeps because
every statement that can occur keeps them. -/

namespace Sys2Proof.Machine

open Sys2Proof

/-! ## Statements that occur -/

/-- A property of statements that holds of everything the operations are made of, `phase` writes apart. -/
structure Ordinary (p : Action → Bool) : Prop where
  frame : ∀ n rs, p (.write (nibbleFrame n rs)) = true
  frameLow : ∀ n rs, p (.write (enableLow (nibbleFrame n rs))) = true
  hi : p (.write Config.BUSY_PROBE_HI) = true
  lo : p (.write Config.BUSY_PROBE_LO) = true
  readHi : p .readHi = true
  readLo : p .readLo = true
  status : p .status = true
  testBusy : p .testBusy = true
  cursor : ∀ c, c < 32 → p (.setCursor c) = true
  empty : p .emptyBuffer = true
  answer : ∀ v, p (.answer v) = true
  answerBusy : p .answerBusy = true
  ret : p .ret = true

variable {p : Action → Bool}

theorem Ordinary.waitNotBusy (g : Ordinary p) : waitNotBusyCode.all p = true := by
  simp [waitNotBusyCode, readBusyCode, g.hi, g.lo, g.readHi, g.readLo, g.status, g.testBusy]

theorem Ordinary.sendNibble (g : Ordinary p) (n rs) : (sendNibbleCode n rs).all p = true := by
  simp [sendNibbleCode, pulseCode, g.frame, g.frameLow]

theorem Ordinary.sendByte (g : Ordinary p) (n rs) : (sendByteCode n rs).all p = true := by
  rw [sendByteCode, List.all_append, g.sendNibble, g.sendNibble]; rfl

theorem Ordinary.sendCommand (g : Ordinary p) (n) : (sendCommandCode n).all p = true := by
  rw [sendCommandCode, List.all_append, g.waitNotBusy, g.sendByte]; rfl

theorem Ordinary.clear (g : Ordinary p) : clearCode.all p = true := by
  rw [clearCode, List.all_append, g.sendCommand]; simp [g.cursor]

theorem Ordinary.moveTo (g : Ordinary p) (c) (h : c < 32) : (setCursorCode c).all p = true := by
  rw [setCursorCode, List.all_append, g.sendCommand]; simp [g.cursor, h]

theorem Ordinary.printLoop (g : Ordinary p) (t : List Byte) (i : Nat) : (printLoopCode i t).all p = true := by
  induction t generalizing i with
  | nil => rfl
  | cons b t ih =>
    rw [printLoopCode, List.all_append, List.all_append, ih]
    simp only [printCharCode, sendDataCode, g.sendByte, Bool.and_true]
    split
    · exact g.moveTo _ (by decide)
    · rfl

theorem Ordinary.flush (g : Ordinary p) (t : List Byte) : (flushCode t).all p = true := by
  rw [flushCode, List.all_append, List.all_append, List.all_append, g.clear, g.moveTo 0 (by decide), g.printLoop]
  simp [g.empty]

theorem Ordinary.init (g : Ordinary p) (hph : ∀ x, p (.setPhase x) = true) : initCode.all p = true := by
  simp only [initCode, List.all_append, g.sendCommand, g.clear, g.moveTo 0 (by decide), sendHalfCommandCode, g.sendNibble]
  simp [hph]

theorem posInRange_lt {pos : Int} (h : posInRange pos = true) : pos.toNat < 32 := by
  unfold posInRange at h; rw [decide_eq_true_iff] at h
  have : (0 ≤ pos ∧ pos ≤ ((32:Nat):Int) - 1) := h
  omega

theorem Ordinary.program (g : Ordinary p) {i c} (h : Program i c) (hi : i = .init → ∀ x, p (.setPhase x) = true)
    (hpl : ∀ b, i = .pulse b → p (.write b) = true ∧ p (.write (enableLow b)) = true)
    (hf : ∀ n bl en rs, i = .frame n bl en rs → p (.write (packFrame n bl en false rs)) = true) : c.all p = true := by
  cases h with
  | init => rw [List.all_append, g.init (hi rfl)]; simp [g.answer]
  | clear => rw [List.all_append, g.clear]; simp [g.answer]
  | setCursor pos h => rw [List.all_append, g.moveTo _ (posInRange_lt h)]; simp [g.answer]
  | printChar b => rw [List.all_append, printCharCode, sendDataCode, g.sendByte]; simp [g.answer]
  | sendCommand b => rw [List.all_append, g.sendCommand]; simp [g.answer]
  | sendData b => rw [List.all_append, sendDataCode, g.sendByte]; simp [g.answer]
  | sendHalfCommand b => rw [List.all_append, sendHalfCommandCode, g.sendNibble]; simp [g.answer]
  | readBusy => simp [readBusyCode, g.hi, g.lo, g.readHi, g.readLo, g.status, g.answerBusy]
  | pulse b h => simp [pulseCode, hpl b rfl, g.answer]
  | flush t => rw [List.all_append, g.flush]; simp [g.ret]
  | frame n bl en rs => simp [hf n bl en rs rfl]
  | busyProbeHi => simp [g.hi]
  | busyProbeLo => simp [g.lo]
  | lcdFunctionSet4BitHalf => rw [List.all_append, sendHalfCommandCode, g.sendNibble]; simp [g.ret]
  | lcdFunctionSet2Line => rw [List.all_append, g.sendCommand]; simp [g.ret]
  | lcdDisplayOnCursorBlink => rw [List.all_append, g.sendCommand]; simp [g.ret]
  | lcdClear => rw [List.all_append, g.sendCommand]; simp [g.ret]
  | lcdSetDdramAddr a => rw [List.all_append, g.sendCommand]; simp [g.ret]
  | lcdData d => rw [List.all_append, sendDataCode, g.sendByte]; simp [g.ret]
  | append o bs t => rw [List.all_append, g.flush]; simp [g.answer]

/-! ## Properties kept because every statement that occurs keeps them -/

/-- Every statement with property `p`, and every answer and error, keeps `q`. -/
structure Respects (p : Action → Bool) (q : State → Prop) : Prop where
  goTo : ∀ {s} x, q s → q (s.goTo x)
  withDraws : ∀ {s} d, q s → q (s.withDraws d)
  setBusy : ∀ {s} b, q s → q (s.setBusy b)
  sleep : ∀ {s}, q s → q (s.emit (.sleep 10))
  setPhase : ∀ {s x}, p (.setPhase x) = true → q s → q (s.setPhase x)
  setCursor : ∀ {s c}, p (.setCursor c) = true → q s → q (s.setCursor c)
  emptyBuffer : ∀ {s}, p .emptyBuffer = true → q s → q (s.setLbOff 0)
  answer : ∀ {s} v, q s → q (s.finish (.ok v))
  ret : ∀ {s}, q s → q s.idle
  write : ∀ {s v}, p (.write v) = true → q s → q (s.wrote v)
  read : ∀ {s} v, q s → q (s.emit (.read v))
  setH : ∀ {s} v, q s → q (s.setH v)
  setL : ∀ {s} v, q s → q (s.setL v)
  writeErr : ∀ {s v} e, p (.write v) = true → q s → q ((s.writeFailed v).raiseError (.busError e))
  readErr : ∀ {s} e, q s → q ((s.emit .readErr).raiseError (.busError e))

theorem Respects.kept {q : State → Prop} (g : Ordinary p) (r : Respects p q) :
    Kept (fun c s => c.all p = true ∧ q s) := by
  have hd : ∀ {a : Action} {k : List Action}, (a :: k).all p = true → p a = true ∧ k.all p = true := by
    intro a k h
    simpa using h
  exact
    { goTo := fun x h => ⟨h.1, r.goTo x h.2⟩
      withDraws := fun d h => ⟨h.1, r.withDraws d h.2⟩
      status := fun h => ⟨(hd h.1).2, r.setBusy _ h.2⟩
      busy := fun h _ => ⟨by rw [List.all_append, g.waitNotBusy, (hd h.1).2]; rfl, r.sleep h.2⟩
      clear := fun h _ => ⟨(hd h.1).2, h.2⟩
      setPhase := fun h => ⟨(hd h.1).2, r.setPhase (hd h.1).1 h.2⟩
      setCursor := fun h => ⟨(hd h.1).2, r.setCursor (hd h.1).1 h.2⟩
      emptyBuffer := fun h => ⟨(hd h.1).2, r.emptyBuffer (hd h.1).1 h.2⟩
      answer := fun h => ⟨rfl, r.answer _ h.2⟩
      answerBusy := fun h _ => ⟨rfl, r.answer _ h.2⟩
      ret := fun h => ⟨rfl, r.ret h.2⟩
      write := fun h => ⟨(hd h.1).2, r.write (hd h.1).1 h.2⟩
      readHi := fun h => ⟨(hd h.1).2, r.setH _ (r.read _ h.2)⟩
      readLo := fun h => ⟨(hd h.1).2, r.setL _ (r.read _ h.2)⟩
      writeErr := fun h => ⟨rfl, r.writeErr _ (hd h.1).1 h.2⟩
      readHiErr := fun h => ⟨rfl, r.readErr _ h.2⟩
      readLoErr := fun h => ⟨rfl, r.readErr _ h.2⟩ }

/-- A run of ordinary pseudocode keeps what its statements respect. -/
theorem Respects.go {q : State → Prop} (g : Ordinary p) (r : Respects p q) {code : List Action} {s : State}
    (ds : List Draw) (hc : code.all p = true) (hq : q s) : q (State.go ds code s) :=
  ((r.kept g).go ds ⟨hc, hq⟩).2

end Sys2Proof.Machine
end

