-- ==== Sys2Proof/Laws/Step.lean ====
section
/-! SUPPORT. What one step is, case by case: reset, an operation in flight, a response that stands, an idle block; and what
taking an item of the request stream leaves. -/

namespace Sys2Proof.Machine

open Sys2Proof

theorem step_reset {s : State} (hr : s.resetLine = true) : step s = .next s.applyReset := by
  simp only [step, hr, if_true]

/-- An operation in flight goes on (R27). -/
theorem step_inFlight {s : State} (hr : s.resetLine = false) (hp : s.position ≠ []) : step s = .next s.resume := by
  unfold step
  rw [if_neg (by simp [hr])]
  split
  · rfl
  · next h _ => exact absurd h hp
  · next h _ => exact absurd h hp

/-- A response that stands is a matter of the host alone (R238 (a)). -/
theorem step_answered {s : State} (hr : s.resetLine = false) (hp : s.position = []) (ha : s.response ≠ none) :
    step s = .next s.handshake := by
  unfold step
  rw [if_neg (by simp [hr])]
  split
  · next h => rw [hp] at h; cases h
  · rfl
  · next h => exact absurd h ha

/-- An idle block takes the next item of the request stream (R75, R242). -/
theorem step_idle {s : State} (hr : s.resetLine = false) (hi : s.Idle) :
    step s =
      match s.fetch with
      | .nothing => .next s
      | .bad e => .refused (.undecodable e)
      | .item i t => exec i t := by
  unfold step
  rw [if_neg (by simp [hr])]
  split
  · next h => rw [hi.1] at h; cases h
  · next h => rw [hi.2] at h; cases h
  · rfl

/-- The item that is taken is the one that the request port's bytes decode to, and only the port changes. -/
theorem State.fetch_item {s t : State} {i : Instr} (h : s.fetch = .item i t) :
    ∃ rest, decodeAs s.lane s.requests = .ok (i, rest) ∧ t = { s with requests := rest, lane := .req } := by
  unfold State.fetch at h
  split at h
  · cases h
  · split at h
    · cases h
    · next hd => cases h; exact ⟨_, hd, rfl⟩

end Sys2Proof.Machine
end

