-- ==== Sys2Proof/Tests/Slice0.lean ====
section
/-! SUPPORT. Tests: ill-formed terms refused, every constructor's word, and steps with the expected results of
95_test_vectors.md; then a witness for the hypotheses of every statement that has some. -/

namespace Sys2Proof.Tests

open Sys2Proof Sys2Proof.Machine

/-! ## Ill-formed terms (one for each check of WellFormed) -/

theorem test_setCursor_above_illFormed : (Instr.setCursor 128).wellFormed = false := by decide
theorem test_setCursor_below_illFormed : (Instr.setCursor (-129)).wellFormed = false := by decide
theorem test_setCursor_ends_wellFormed :
    (Instr.setCursor 127).wellFormed = true ∧ (Instr.setCursor (-128)).wellFormed = true := by decide
theorem test_pulse_enableClear_illFormed : (Instr.pulse 0x28#8).wellFormed = false := by decide
theorem test_append_offset_illFormed : (Instr.append 256 []).wellFormed = false := by decide
theorem test_append_length_illFormed (bytes : List Byte) (h : bytes.length = 256) :
    (Instr.append 0 bytes).wellFormed = false := by
  simp [Instr.wellFormed, h]
theorem test_reqInvalid_named_illFormed : (Instr.reqInvalid 0x0A#8).wellFormed = false := by decide

/-! ## Decoding: words of 95_test_vectors.md section 2.7 and of the tables of 30_encoding.md -/

/-- What a decoder answers, where it accepts. -/
def decoded (f : Format) (bytes : List Byte) : Option (Instr × List Byte) := (decodeAs f bytes).toOption

theorem test_decode_init : decoded .req [0x00#8] = some (.init, []) := by decide
theorem test_decode_clear : decoded .req [0x01#8] = some (.clear, []) := by decide
theorem test_decode_setCursor : decoded .req [0x02#8, 0xFF#8] = some (.setCursor (-1), []) := by decide
theorem test_decode_printChar : decoded .req [0x03#8, 0x41#8] = some (.printChar 0x41#8, []) := by decide
theorem test_decode_sendCommand : decoded .req [0x04#8, 0x28#8] = some (.sendCommand 0x28#8, []) := by decide
theorem test_decode_sendData : decoded .req [0x05#8, 0x0A#8] = some (.sendData 0x0A#8, []) := by decide
theorem test_decode_sendHalfCommand : decoded .req [0x06#8, 0x20#8] = some (.sendHalfCommand 0x20#8, []) := by decide
theorem test_decode_readBusy : decoded .req [0x07#8] = some (.readBusy, []) := by decide
theorem test_decode_pulse : decoded .req [0x08#8, 0x2C#8] = some (.pulse 0x2C#8, []) := by decide
theorem test_decode_encode : decoded .req [0x09#8, 0x5F#8] = some (.encode 0xF#4 true false true, []) := by decide
theorem test_decode_append :
    decoded .req [0x0A#8, 0x03#8, 0x01#8, 0x58#8, 0x07#8] = some (.append 3 [0x58#8], [0x07#8]) := by decide
theorem test_decode_flush : decoded .internal [] = some (.flush, []) := by decide
theorem test_decode_reqInvalid : decoded .req [0x0B#8] = some (.reqInvalid 0x0B#8, []) := by decide
theorem test_decode_frame : decoded .xbyte [0xA5#8] = some (.frame 0xA#4 false true true, []) := by decide
theorem test_decode_busyProbeHi : decoded .xbyte [0xFE#8] = some (.busyProbeHi, []) := by decide
theorem test_decode_busyProbeLo : decoded .xbyte [0xFA#8] = some (.busyProbeLo, []) := by decide
theorem test_decode_readByte : decoded .xbyteIn [0x7E#8] = some (.readByte 0x7#4 0xE#4, []) := by decide
theorem test_decode_status : decoded .lcdStatus [0x81#8] = some (.status true 1#7, []) := by decide
theorem test_decode_lcdHalf : decoded .lcdCmd [0x20#8] = some (.lcdFunctionSet4BitHalf, []) := by decide
theorem test_decode_lcdFunctionSet : decoded .lcdCmd [0x28#8] = some (.lcdFunctionSet2Line, []) := by decide
theorem test_decode_lcdDisplayOn : decoded .lcdCmd [0x0F#8] = some (.lcdDisplayOnCursorBlink, []) := by decide
theorem test_decode_lcdClear : decoded .lcdCmd [0x01#8] = some (.lcdClear, []) := by decide
theorem test_decode_lcdSetDdram : decoded .lcdCmd [0xCF#8] = some (.lcdSetDdramAddr 0x4F#7, []) := by decide
theorem test_decode_lcdData : decoded .lcdData [0x0A#8] = some (.lcdData 0x0A#8, []) := by decide
theorem test_decode_response : decoded .rsp [0x00#8, 0x06#8] = some (.response (.ok (some 0x06#8)), []) := by decide

theorem test_decode_refuses :
    decoded .req [0x09#8, 0x80#8] = none ∧ decoded .req [0x08#8, 0x28#8] = none ∧ decoded .req [0x02#8] = none
      ∧ decoded .xbyte [0x02#8] = none ∧ decoded .lcdCmd [0x06#8] = none ∧ decoded .rsp [0x04#8] = none := by decide

theorem test_tableWord_lcdSetDdram :
    decodeTableWord 8 0x80 = some (.lcdSetDdramAddr 0#7) ∧ decodeTableWord 8 0x28 = some .lcdFunctionSet2Line := by decide
theorem test_tableWord_operandByte :
    decodeTableWord 16 0x4103 = some (.printChar 0x41#8) ∧ decodeTableWord 8 0x0A = some (.append 0 []) := by decide

/-! ## Small states -/

/-- The start state of the vectors, `Ready / 5 / 0 / 08`, with the environment's answers `ds`. -/
def ready (ds : List Draw) : State :=
  { State.reset with phase := .ready, cursor := some 5, port := some 0x08#8, draws := ds }

/-- A write's answer, a read's answer (a write ignores the byte), a failure. -/
def w : Draw := .ok 0#8
def r (v : Byte) : Draw := .ok v
def fail : Draw := .err [0x07#8]

/-- One status read whose first byte is `v`, of a quiet environment (`B0` with v = 0x0E). -/
def poll (v : Byte) : List Draw := [w, r v, w, w, r 0x0E#8]

/-- The events of `poll v`. -/
def polled (v : Byte) : List Event := [.write 0xFE#8, .read v, .write 0xFA#8, .write 0xFE#8, .read 0x0E#8]

def wr (v : Byte) : Event := .write v

/-- What a vector of 95_test_vectors.md lists. -/
structure Seen where
  trace : List Event
  response : Option Response
  phase : Phase
  cursor : Option Nat
  lbOff : Nat
  port : Option Byte
deriving DecidableEq

def seen (o : Host.Outcome State Fault Refusal) : Option Seen :=
  (nextState o).map fun t => ⟨t.trace, t.response, t.phase, t.cursor, t.lbOff, t.port⟩

/-! ## Vectors of 95_test_vectors.md -/

/-- V-E9. -/
theorem test_encode_backlightOff :
    seen (exec (.encode 0xA#4 true true false) (ready []))
      = some ⟨[], some (.ok (some 0xA5#8)), .ready, some 5, 0, some 0x08#8⟩ := by decide

/-- V-P2. -/
theorem test_pulse_ok :
    seen (exec (.pulse 0x4D#8) (ready [w, w]))
      = some ⟨[wr 0x4D#8, wr 0x49#8], some (.ok none), .ready, some 5, 0, some 0x49#8⟩ := by decide

/-- V-P6. -/
theorem test_pulse_secondFails :
    seen (exec (.pulse 0x4D#8) (ready [w, fail]))
      = some ⟨[wr 0x4D#8, .writeErr 0x49#8], some (.error (.busError [0x07#8])), .ready, some 5, 0, none⟩ := by decide

/-- V-B3: bit 7 of the second read is no busy flag. -/
theorem test_readBusy_secondRead :
    seen (exec .readBusy (ready [w, r 0x7E#8, w, w, r 0xFE#8]))
      = some ⟨[wr 0xFE#8, .read 0x7E#8, wr 0xFA#8, wr 0xFE#8, .read 0xFE#8], some (.ok (some 0#8)), .ready, some 5, 0,
          some 0xFE#8⟩ := by decide

/-- V-B12: busy was read, but the operation failed. -/
theorem test_readBusy_lastFails :
    seen (exec .readBusy (ready [w, r 0x8E#8, w, w, fail]))
      = some ⟨[wr 0xFE#8, .read 0x8E#8, wr 0xFA#8, wr 0xFE#8, .readErr], some (.error (.busError [0x07#8])), .ready,
          some 5, 0, some 0xFE#8⟩ := by decide

/-- V-N3: the low nibble is ignored. -/
theorem test_sendHalfCommand :
    seen (exec (.sendHalfCommand 0x35#8) (ready [w, w]))
      = some ⟨[wr 0x3C#8, wr 0x38#8], some (.ok none), .ready, some 5, 0, some 0x38#8⟩ := by decide

/-- V-N10 with the second byte of each read 0x0E: one busy answer, one sleep. -/
theorem test_sendCommand_busyOnce :
    seen (exec (.sendCommand 0xC0#8) (ready (poll 0xFF#8 ++ poll 0x7F#8 ++ [w, w, w, w])))
      = some ⟨polled 0xFF#8 ++ [.sleep 10] ++ polled 0x7F#8 ++ [wr 0xCC#8, wr 0xC8#8, wr 0x0C#8, wr 0x08#8],
          some (.ok none), .ready, some 5, 0, some 0x08#8⟩ := by decide

/-- V-N12. -/
theorem test_sendCommand_eighthFails :
    seen (exec (.sendCommand 0x28#8) (ready (poll 0x0E#8 ++ [w, w, fail])))
      = some ⟨polled 0x0E#8 ++ [wr 0x2C#8, wr 0x28#8, .writeErr 0x8C#8], some (.error (.busError [0x07#8])), .ready,
          some 5, 0, none⟩ := by decide

/-- V-N17. -/
theorem test_sendData :
    seen (exec (.sendData 0xA5#8) (ready [w, w, w, w]))
      = some ⟨[wr 0xAD#8, wr 0xA9#8, wr 0x5D#8, wr 0x59#8], some (.ok none), .ready, some 5, 0, some 0x59#8⟩ := by decide

/-- V-PC2: `cursor` stays. -/
theorem test_printChar :
    seen (exec (.printChar 0x21#8) (ready [w, w, w, w]))
      = some ⟨[wr 0x2D#8, wr 0x29#8, wr 0x1D#8, wr 0x19#8], some (.ok none), .ready, some 5, 0, some 0x19#8⟩ := by decide

/-- V-CL1. -/
theorem test_clear :
    seen (exec .clear (ready (poll 0x0E#8 ++ [w, w, w, w])))
      = some ⟨polled 0x0E#8 ++ [wr 0x0C#8, wr 0x08#8, wr 0x1C#8, wr 0x18#8], some (.ok none), .ready, some 0, 0,
          some 0x18#8⟩ := by decide

/-- V-CL2: `cursor` is not written on failure. -/
theorem test_clear_ninthFails :
    seen (exec .clear (ready (poll 0x0E#8 ++ [w, w, w, fail])))
      = some ⟨polled 0x0E#8 ++ [wr 0x0C#8, wr 0x08#8, wr 0x1C#8, .writeErr 0x18#8], some (.error (.busError [0x07#8])),
          .ready, some 5, 0, none⟩ := by decide

/-- V-SC5. -/
theorem test_setCursor_line2 :
    seen (exec (.setCursor 17) (ready (poll 0x0E#8 ++ [w, w, w, w])))
      = some ⟨polled 0x0E#8 ++ [wr 0xCC#8, wr 0xC8#8, wr 0x1C#8, wr 0x18#8], some (.ok none), .ready, some 17, 0,
          some 0x18#8⟩ := by decide

/-- V-SC7, V-SC8: no call, no state change. -/
theorem test_setCursor_outside :
    seen (exec (.setCursor (-1)) (ready [])) = some ⟨[], some (.error .invalidArgument), .ready, some 5, 0, some 0x08#8⟩
      ∧ seen (exec (.setCursor 32) (ready []))
          = some ⟨[], some (.error .invalidArgument), .ready, some 5, 0, some 0x08#8⟩ := by decide

/-- V-I6: the first call of step 3 fails. -/
theorem test_init_twelfthFails :
    (nextState (exec .init { State.reset with draws := [w, w] ++ poll 0x0E#8 ++ [w, w, w, w, fail] })).map
        (fun t => (t.phase, t.cursor, t.response, t.port))
      = some (.twoLineModePending, none, some (.error (.busError [0x07#8])), none) := by decide

/-- V-LB1. -/
theorem test_append_stores :
    (nextState (exec (.append 0 [0x48#8, 0x49#8]) (ready []))).map (fun t => (t.lbBuf, t.lbOff, t.response, t.trace))
      = some ([(0, 0x48#8), (1, 0x49#8)], 2, some (.ok (some 2#8)), []) := by decide

/-- V-LB10: bytes after the first NEWLINE are dropped. -/
theorem test_append_flushes :
    seen (exec (.append 0 [0x41#8, 0x0A#8, 0x42#8, 0x0A#8])
        (ready (poll 0x0E#8 ++ [w, w, w, w] ++ poll 0x0E#8 ++ [w, w, w, w] ++ [w, w, w, w])))
      = some ⟨polled 0x0E#8 ++ [wr 0x0C#8, wr 0x08#8, wr 0x1C#8, wr 0x18#8] ++ polled 0x0E#8
            ++ [wr 0x8C#8, wr 0x88#8, wr 0x0C#8, wr 0x08#8] ++ [wr 0x4D#8, wr 0x49#8, wr 0x1D#8, wr 0x19#8],
          some (.ok (some 4#8)), .ready, some 0, 0, some 0x19#8⟩ := by decide

/-- V-LB9's 18 calls for a buffer that holds one NEWLINE, as FLUSH alone. -/
theorem test_flush_empty :
    seen (exec .flush { ready (poll 0x0E#8 ++ [w, w, w, w] ++ poll 0x0E#8 ++ [w, w, w, w]) with
          lbBuf := [(0, 0x0A#8)], lbOff := 1 })
      = some ⟨polled 0x0E#8 ++ [wr 0x0C#8, wr 0x08#8, wr 0x1C#8, wr 0x18#8] ++ polled 0x0E#8
            ++ [wr 0x8C#8, wr 0x88#8, wr 0x0C#8, wr 0x08#8], none, .ready, some 0, 0, some 0x08#8⟩ := by decide

/-- R98. -/
theorem test_reqInvalid : refusalOf (exec (.reqInvalid 0x0B#8) (ready [])) = some (.noSuchOperation 0x0B#8) := by decide

/-- R52, R80. -/
theorem test_frame :
    seen (exec (.frame 0x2#4 true true false) (ready [w])) = some ⟨[wr 0x2C#8], none, .ready, some 5, 0, some 0x2C#8⟩ := by
  decide

/-- R83. -/
theorem test_busyProbeHi :
    seen (exec .busyProbeHi (ready [w])) = some ⟨[wr 0xFE#8], none, .ready, some 5, 0, some 0xFE#8⟩ := by decide

theorem test_busyProbeLo :
    seen (exec .busyProbeLo (ready [fail]))
      = some ⟨[.writeErr 0xFA#8], some (.error (.busError [0x07#8])), .ready, some 5, 0, none⟩ := by decide

/-- R84: the first byte gives H, the second L. -/
theorem test_readByte :
    (nextState (exec (.readByte 0x8#4 0xE#4) (ready []))).map (fun t => (t.H, t.L, t.trace))
        = some (some 0x8#4, none, [.read 0x8E#8])
      ∧ (nextState (exec (.readByte 0x0#4 0xE#4) { ready [] with H := some 0x8#4 })).map (fun t => (t.H, t.L))
        = some (some 0x8#4, some 0x0#4) := by decide

/-- R85. -/
theorem test_status :
    (nextState (exec (.status true 0x0E#7) (ready []))).map (fun t => t.busy) = some (some true) := by decide

/-- R87: 0x20 sends nibble 0x2 once. -/
theorem test_lcdFunctionSet4BitHalf :
    seen (exec .lcdFunctionSet4BitHalf (ready [w, w]))
      = some ⟨[wr 0x2C#8, wr 0x28#8], none, .ready, some 5, 0, some 0x28#8⟩ := by decide

/-- V-N4's frames. -/
theorem test_lcdFunctionSet2Line :
    seen (exec .lcdFunctionSet2Line (ready (poll 0x0E#8 ++ [w, w, w, w])))
      = some ⟨polled 0x0E#8 ++ [wr 0x2C#8, wr 0x28#8, wr 0x8C#8, wr 0x88#8], none, .ready, some 5, 0, some 0x88#8⟩ := by
  decide

/-- V-N5's frames. -/
theorem test_lcdDisplayOnCursorBlink :
    seen (exec .lcdDisplayOnCursorBlink (ready (poll 0x0E#8 ++ [w, w, w, w])))
      = some ⟨polled 0x0E#8 ++ [wr 0x0C#8, wr 0x08#8, wr 0xFC#8, wr 0xF8#8], none, .ready, some 5, 0, some 0xF8#8⟩ := by
  decide

/-- V-N6's frames; the byte alone does not write `cursor` (D13). -/
theorem test_lcdClear :
    seen (exec .lcdClear (ready (poll 0x0E#8 ++ [w, w, w, w])))
      = some ⟨polled 0x0E#8 ++ [wr 0x0C#8, wr 0x08#8, wr 0x1C#8, wr 0x18#8], none, .ready, some 5, 0, some 0x18#8⟩ := by
  decide

/-- V-SC6's frames. -/
theorem test_lcdSetDdramAddr :
    seen (exec (.lcdSetDdramAddr 0x4F#7) (ready (poll 0x0E#8 ++ [w, w, w, w])))
      = some ⟨polled 0x0E#8 ++ [wr 0xCC#8, wr 0xC8#8, wr 0xFC#8, wr 0xF8#8], none, .ready, some 5, 0, some 0xF8#8⟩ := by
  decide

/-- V-N14's frames. -/
theorem test_lcdData :
    seen (exec (.lcdData 0x48#8) (ready [w, w, w, w]))
      = some ⟨[wr 0x4D#8, wr 0x49#8, wr 0x8D#8, wr 0x89#8], none, .ready, some 5, 0, some 0x89#8⟩ := by decide

/-- R97. -/
theorem test_response :
    (nextState (exec (.response (.error .messageTooLong)) (ready []))).map (fun t => (t.response, t.position))
      = some (some (.error .messageTooLong), []) := by decide

/-- R36, R57: reset memory is canonical, and a write of the same address keeps one entry. -/
theorem test_memory :
    State.reset.lbBuf.wf = true ∧ Memory.write [(3, 1#8), (5, 2#8)] 5 7#8 = [(3, 1#8), (5, 7#8)]
      ∧ Memory.write [(3, 1#8), (5, 2#8)] 4 7#8 = [(3, 1#8), (4, 7#8), (5, 2#8)] := by decide

/-- R238 (a): the response is taken in the step after, and the next request waits for it. -/
theorem test_step_takesTheResponse :
    let s := { ready [] with requests := [0x09#8, 0x62#8], response := some (.ok none) }
    (nextState (step s)).map (fun t => (t.response, t.requests)) = some (none, [0x09#8, 0x62#8])
      ∧ nextState (step { s with rspReady := false }) = some { s with rspReady := false }
      ∧ refusalOf (exec .clear s) = some .requestInFlight := by decide

/-- R96: a request stream is taken one request at a time. -/
theorem test_step_takesOneRequest :
    (nextState (step { ready [] with requests := [0x09#8, 0x62#8, 0x07#8] })).map (fun t => (t.response, t.requests))
      = some (some (.ok (some 0x2C#8)), [0x07#8]) := by decide

theorem test_withFetchWord :
    nextState (step (State.reset.withFetchWord 8 0x28)) = nextState (exec .lcdFunctionSet2Line State.reset)
      ∧ nextState (step (State.reset.withFetchWord 16 0x6209)) = nextState (exec (.encode 0x2#4 false true true) State.reset) := by
  decide

/-! ## Witnesses: states and operands that meet a statement's hypotheses together, clause by clause -/

/-- A busy answer and a clear one. -/
def busyRead : StatusRead := ⟨0#8, 0x80#8, 0#8, 0#8, 0#8⟩
def clearRead : StatusRead := ⟨0#8, 0x7F#8, 0#8, 0#8, 0xFF#8⟩

/-- A command whose first poll is busy: 14 calls. -/
def busyOnce : CommandRun := ⟨[busyRead], clearRead, 0#8, 0#8, 0#8, 0#8⟩

/-- A command whose poll clears at once: 9 calls. -/
def quiet : CommandRun := ⟨[], clearRead, 0#8, 0#8, 0#8, 0#8⟩

theorem busyOnce_clears : busyOnce.clears := by
  refine ⟨?_, by decide⟩
  intro q hq
  simp only [busyOnce, List.mem_singleton] at hq
  subst hq
  decide

theorem quiet_clears : quiet.clears := ⟨(by intro q hq; cases hq), by decide⟩

/-- INIT in a quiet environment: 38 calls. -/
def quietInit : InitRun := ⟨0#8, 0#8, quiet, quiet, quiet, quiet⟩

theorem quietInit_clears : quietInit.clears := ⟨quiet_clears, quiet_clears, quiet_clears, quiet_clears⟩

/-- A flush of k characters, each poll clear at once. -/
def quietFlush (k : Nat) : FlushRun :=
  ⟨quiet, quiet, quiet, List.replicate (4 * min k 16) 0#8, List.replicate (4 * (k - 16)) 0#8⟩

theorem quietFlush_fits (k : Nat) : (quietFlush k).fits k :=
  ⟨quiet_clears, quiet_clears, quiet_clears, List.length_replicate, List.length_replicate⟩

/-- An idle block with answers `ds`. -/
def idle (ds : List Draw) : State := { State.reset with draws := ds }

/-- A block that waits at the first write of PULSE 0x2C. -/
def waiting (ds : List Draw) : State :=
  { State.reset with position := [.write 0x2C#8, .write 0x28#8, .answer none], draws := ds }

/-- A block whose buffer holds `valid`, given as cells. -/
def holding (cells : Memory) (ds : List Draw) : State :=
  { State.reset with lbBuf := cells, lbOff := cells.length, draws := ds }

theorem empty_valid (ds : List Draw) : (idle ds).validIs [] := ⟨rfl, (by intro i b h; cases h)⟩

theorem witness_DecodeOfEncodeIsIdentity :
    (Instr.setCursor (-128)).wellFormed = true ∧ (Instr.setCursor 127).wellFormed = true
      ∧ (Instr.pulse 0x04#8).wellFormed = true ∧ (Instr.append 255 [0x0A#8]).wellFormed = true
      ∧ (Instr.reqInvalid 0x0B#8).wellFormed = true ∧ (Instr.reqInvalid 0xFF#8).wellFormed = true
      ∧ (Instr.append 255 [0x0A#8]).format = .req := by decide

theorem witness_AcceptedBytesAreTheEncoding :
    decodeAs .req [0x02#8, 0x80#8, 0x07#8] = .ok (.setCursor (-128), [0x07#8])
      ∧ decodeAs .lcdCmd [0xFF#8] = .ok (.lcdSetDdramAddr 0x7F#7, []) := ⟨rfl, rfl⟩

theorem witness_InvalidRequestsAreRefused :
    let s (bytes : List Byte) : State := { State.reset with requests := bytes }
    (s [0x0B#8]).Idle ∧ (s [0x0B#8]).lane = .req ∧ (s [0x0B#8]).resetLine = false ∧ 0x0B ≤ (0x0B#8).toNat
      ∧ 0x0B ≤ (0xFF#8).toNat ∧ (s [0x0B#8]).requests = 0x0B#8 :: [] ∧ (s [0xFF#8]).requests = 0xFF#8 :: []
      ∧ (0x80#8).getLsbD 7 = true ∧ (s [0x09#8, 0x80#8]).requests = 0x09#8 :: 0x80#8 :: []
      ∧ (0xFB#8).getLsbD 2 = false ∧ (s [0x08#8, 0xFB#8]).requests = 0x08#8 :: 0xFB#8 :: [] := by decide

theorem witness_ResponseWordsHaveTheirStatus : 4 ≤ (4#8).toNat ∧ 4 ≤ (255#8).toNat := by decide

theorem witness_EncodeAnswersTheFrame : (idle []).Idle := ⟨rfl, rfl⟩

theorem witness_ResponseIsPresented : (idle []).Idle := ⟨rfl, rfl⟩

theorem witness_NoOperationReadsTheCursor : (idle []).Idle := ⟨rfl, rfl⟩

theorem witness_HalfCommandSendsTheHighNibble :
    (idle [w, w]).Idle ∧ (idle [w, w]).draws = .ok 0#8 :: .ok 0#8 :: []
      ∧ (idle [fail]).draws = .err [0x07#8] :: [] ∧ (idle [w, fail]).draws = .ok 0#8 :: .err [0x07#8] :: [] := by decide

theorem witness_EnableMaskFlipsBitTwo : (0x04#8).getLsbD 2 = true ∧ (0xFB#8).getLsbD 2 = false := by decide

theorem witness_PulseWritesTwice :
    (idle [w, w]).Idle ∧ (0x04#8).getLsbD 2 = true ∧ (idle [w, w]).draws = .ok 0#8 :: .ok 0#8 :: []
      ∧ (idle [fail]).draws = .err [0x07#8] :: [] ∧ (idle [w, fail]).draws = .ok 0#8 :: .err [0x07#8] :: [] := by decide

theorem witness_ReadBusyAnswersTheFlag :
    (idle busyRead.draws).Idle ∧ (idle busyRead.draws).draws = busyRead.draws ++ [] := by decide

theorem witness_ReadBusyStopsAtItsFailedCall :
    let q := busyRead
    (idle [fail]).draws = .err [0x07#8] :: []
      ∧ (idle [.ok q.a, fail]).draws = .ok q.a :: .err [0x07#8] :: []
      ∧ (idle [.ok q.a, .ok q.r1, fail]).draws = .ok q.a :: .ok q.r1 :: .err [0x07#8] :: []
      ∧ (idle [.ok q.a, .ok q.r1, .ok q.b, fail]).draws = .ok q.a :: .ok q.r1 :: .ok q.b :: .err [0x07#8] :: []
      ∧ (idle [.ok q.a, .ok q.r1, .ok q.b, .ok q.c, fail]).draws
          = .ok q.a :: .ok q.r1 :: .ok q.b :: .ok q.c :: .err [0x07#8] :: [] := by decide

theorem witness_TransportBytesAreWritten :
    (idle [w]).Idle
      ∧ ((Instr.frame 0#4 false false false = .frame 0#4 false false false) ∧ 0x00#8 = packFrame 0#4 false false false false)
      ∧ (idle [w]).draws = .ok 0#8 :: [] ∧ (idle [fail]).draws = .err [0x07#8] :: [] := by decide

theorem witness_ReadBytesAndStatusAreTaken :
    (idle []).Idle ∧ (idle []).H = none ∧ ({ idle [] with H := some 0x8#4 } : State).H ≠ none := by decide

theorem witness_SendCommandPollsThenSends :
    (idle (busyOnce.draws ++ [])).Idle ∧ busyOnce.clears
      ∧ (idle (busyOnce.draws ++ [])).draws = busyOnce.draws ++ [] ∧ 0 < busyOnce.draws.length
      ∧ 13 < busyOnce.draws.length
      ∧ (idle (busyOnce.draws.take 13 ++ .err [] :: [])).draws = busyOnce.draws.take 13 ++ .err [] :: [] :=
  ⟨⟨rfl, rfl⟩, busyOnce_clears, rfl, by decide, by decide, rfl⟩

theorem witness_BusyPollNeverGivesUp :
    (idle []).Idle ∧ (idle []).resetLine = false ∧ (0 : Int) ≤ 0 ∧ (0 : Int) ≤ 31 ∧ (31 : Int) ≤ 31
      ∧ (∀ q ∈ [] ++ [busyRead], q.saysBusy = true) ∧ (∀ q ∈ [busyRead] ++ [busyRead], q.saysBusy = true)
      ∧ [busyRead] ≠ [] ∧ quietInit.clears ∧ quietInit.polls.length = 4 :=
  ⟨⟨rfl, rfl⟩, rfl, by decide, by decide, by decide, by decide, by decide, by decide, quietInit_clears, rfl⟩

theorem witness_BusyPollNeverGivesUp_flush :
    let s := holding [(0, 0x0A#8)] []
    s.Idle ∧ s.resetLine = false ∧ s.lbOff ≤ 33 ∧ s.validIs [0x0A#8] ∧ [0x0A#8] = [] ++ 0x0A#8 :: []
      ∧ 0x0A#8 ∉ ([] : List Byte) ∧ (quietFlush 0).fits ([] : List Byte).length ∧ ((quietFlush 0).polls []).length = 2 :=
  ⟨⟨rfl, rfl⟩, rfl, by decide, ⟨rfl, by rintro (_ | i) b h <;> cases h; rfl⟩, rfl, by decide, quietFlush_fits 0, rfl⟩

theorem witness_BusyPollNeverGivesUp_append :
    let text := List.replicate 17 0x41#8
    (idle []).Idle ∧ (idle []).resetLine = false ∧ 0 = (idle []).lbOff ∧ 0 + (text ++ [0x0A#8]).length ≤ 33
      ∧ (idle []).validIs [] ∧ [] ++ (text ++ [0x0A#8]) = text ++ 0x0A#8 :: [] ∧ 0x0A#8 ∉ text
      ∧ (quietFlush 17).fits text.length ∧ ((quietFlush 17).polls text).length = 3 :=
  ⟨⟨rfl, rfl⟩, rfl, rfl, by decide, empty_valid _, by decide, by decide, quietFlush_fits 17, by decide⟩

theorem witness_SendDataWritesFourFrames :
    ([1#8, 2#8, 3#8, 4#8] : List Byte).length = 4 ∧ (idle [.ok 1#8, .ok 2#8, .ok 3#8, .ok 4#8]).Idle
      ∧ (idle [.ok 1#8, .ok 2#8, .ok 3#8, .ok 4#8]).draws = ([1#8, 2#8, 3#8, 4#8] : List Byte).map .ok ++ []
      ∧ (0 < 4) ∧ (idle [fail]).draws = (([1#8, 2#8, 3#8, 4#8] : List Byte).map .ok).take 0 ++ .err [0x07#8] :: []
      ∧ (3 < 4) ∧ (idle [.ok 1#8, .ok 2#8, .ok 3#8, fail]).draws
          = (([1#8, 2#8, 3#8, 4#8] : List Byte).map .ok).take 3 ++ .err [0x07#8] :: [] := by decide

theorem witness_PrintCharSendsTheByte :
    (idle [w, w, w, w]).Idle ∧ ([0#8, 0#8, 0#8, 0#8] : List Byte).length = 4
      ∧ (idle [w, w, w, w]).draws = ([0#8, 0#8, 0#8, 0#8] : List Byte).map .ok ++ [] ∧ (0 < 4 ∧ 3 < 4)
      ∧ (idle [w, w, w, fail]).draws = (([0#8, 0#8, 0#8, 0#8] : List Byte).map .ok).take 3 ++ .err [0x07#8] :: [] := by
  decide

/-- For the clauses about sending data, and about a command whose first frame follows its poll. -/
theorem witness_CommandsPollAndDataDoesNot :
    (∃ t, exec (.sendData 0x48#8) (idle [w]) = .next t)
      ∧ ∃ t, exec (.sendCommand 0x28#8) (idle (clearRead.draws ++ [w])) = .next t
        ∧ t.trace = clearRead.events ++ Event.write 0x2C#8 :: [] ∧ (Event.write 0x2C#8).isFrame = true
        ∧ ∀ x ∈ clearRead.events, x.isFrame = false :=
  ⟨⟨_, rfl⟩, _, rfl, by decide, by decide, by decide⟩

theorem witness_LcdBytesAreSent :
    (idle [w, w]).draws = .ok 0#8 :: .ok 0#8 :: [] ∧ busyOnce.clears
      ∧ (idle (busyOnce.draws ++ [])).draws = busyOnce.draws ++ []
      ∧ ([1#8, 2#8, 3#8, 4#8] : List Byte).length = 4
      ∧ (idle [.ok 1#8, .ok 2#8, .ok 3#8, .ok 4#8]).draws = ([1#8, 2#8, 3#8, 4#8] : List Byte).map .ok ++ [] :=
  ⟨rfl, busyOnce_clears, rfl, rfl, rfl⟩

theorem witness_InitRunsItsFiveSteps :
    (idle (quietInit.draws ++ [])).Idle ∧ quietInit.clears
      ∧ (idle (quietInit.draws ++ [])).draws = quietInit.draws ++ []
      ∧ (∀ n ∈ [0, 1, 2, 10, 11, 19, 20, 28, 29, 37], n < quietInit.draws.length)
      ∧ (idle (quietInit.draws.take 37 ++ .err [] :: [])).draws = quietInit.draws.take 37 ++ .err [] :: [] :=
  ⟨⟨rfl, rfl⟩, quietInit_clears, rfl, by decide, rfl⟩

theorem witness_BootLeavesReady : quietInit.clears := quietInit_clears

theorem witness_ClearZeroesTheCursor :
    (idle (quiet.draws ++ [])).Idle ∧ quiet.clears ∧ (idle (quiet.draws ++ [])).draws = quiet.draws ++ []
      ∧ 0 < quiet.draws.length ∧ 8 < quiet.draws.length
      ∧ (idle (quiet.draws.take 8 ++ .err [] :: [])).draws = quiet.draws.take 8 ++ .err [] :: [] :=
  ⟨⟨rfl, rfl⟩, quiet_clears, rfl, by decide, by decide, rfl⟩

theorem witness_SetCursorAddressesTheCell :
    (idle (quiet.draws ++ [])).Idle ∧ ((-1 : Int) < 0 ∨ 31 < (-1 : Int)) ∧ ((32 : Int) < 0 ∨ 31 < (32 : Int))
      ∧ (0 : Int) ≤ 0 ∧ (0 : Int) ≤ 15 ∧ (16 : Int) ≤ 31 ∧ (31 : Int) ≤ 31 ∧ quiet.clears
      ∧ (idle (quiet.draws ++ [])).draws = quiet.draws ++ [] ∧ 8 < quiet.draws.length
      ∧ (idle (quiet.draws.take 8 ++ .err [] :: [])).draws = quiet.draws.take 8 ++ .err [] :: [] :=
  ⟨⟨rfl, rfl⟩, by decide, by decide, by decide, by decide, by decide, by decide, quiet_clears, rfl, by decide, rfl⟩

theorem witness_PositionsMapToDdram :
    (0 < 32 ∧ 0 < 16) ∧ (15 < 32 ∧ 15 < 16) ∧ (16 ≤ 16 ∧ 16 < 32) ∧ (16 ≤ 31 ∧ 31 < 32)
      ∧ ddramAddr 31 = ddramAddr 31 := by decide

theorem witness_NoOperationReadsThePhase : (idle []).Idle ∧ Instr.clear ≠ .init := by decide

theorem witness_RegistersHaveTheirWriters :
    (idle [w, w]).Idle ∧ (∃ t, exec (.pulse 0x2C#8) (idle [w, w]) = .next t) ∧ Instr.pulse 0x2C#8 ≠ .init
      ∧ Instr.pulse 0x2C#8 ≠ .clear ∧ (∀ pos, Instr.pulse 0x2C#8 ≠ .setCursor pos)
      ∧ (∀ o bs, Instr.pulse 0x2C#8 ≠ .append o bs) ∧ Instr.pulse 0x2C#8 ≠ .flush :=
  ⟨⟨rfl, rfl⟩, ⟨_, rfl⟩, by simp, by simp, by simp, by simp, by simp⟩

theorem witness_AppendWithoutNewlineStores :
    (idle []).Idle ∧ 0 = (idle []).lbOff ∧ 0 + (List.replicate 33 0x41#8).length ≤ 33 ∧ (idle []).validIs []
      ∧ 0x0A#8 ∉ ([] : List Byte) ∧ 0x0A#8 ∉ List.replicate 33 0x41#8 :=
  ⟨⟨rfl, rfl⟩, rfl, by decide, empty_valid [], by decide, by decide⟩

theorem witness_OverflowEmptiesTheBuffer :
    (idle []).Idle ∧ 0 = (idle []).lbOff ∧ 33 < 0 + (List.replicate 34 0x41#8).length := by decide

theorem witness_WrongOffsetIsRefused : (idle []).Idle ∧ 1 ≠ (idle []).lbOff := by decide

/-- A message of 17 characters, the least that wraps. -/
theorem witness_AppendFlushesTheMessage :
    let text := List.replicate 17 0x41#8
    let ds := (quietFlush 17).draws text.length
    (idle ds).Idle ∧ 0 = (idle ds).lbOff ∧ 0 + (text ++ [0x0A#8]).length ≤ 33 ∧ (idle ds).validIs []
      ∧ [] ++ (text ++ [0x0A#8]) = text ++ 0x0A#8 :: [] ∧ 0x0A#8 ∉ text ∧ (quietFlush 17).fits text.length
      ∧ (idle ds).draws = (quietFlush 17).draws text.length ++ [] :=
  ⟨⟨rfl, rfl⟩, rfl, by decide, empty_valid _, by decide, by decide, quietFlush_fits 17, (List.append_nil _).symm⟩

/-- The message of no character, the greatest call number of its flush. -/
theorem witness_FailedFlushKeepsTheMessage :
    let ds := ((quietFlush 0).draws 0).take 17 ++ .err [] :: []
    (idle ds).Idle ∧ 0 = (idle ds).lbOff ∧ 0 + [0x0A#8].length ≤ 33 ∧ (idle ds).validIs []
      ∧ [] ++ [0x0A#8] = [] ++ 0x0A#8 :: [] ∧ 0x0A#8 ∉ ([] : List Byte) ∧ (quietFlush 0).fits ([] : List Byte).length
      ∧ 0 < ((quietFlush 0).draws 0).length ∧ 17 < ((quietFlush 0).draws 0).length
      ∧ (idle ds).draws = ((quietFlush 0).draws ([] : List Byte).length).take 17 ++ .err [] :: [] :=
  ⟨⟨rfl, rfl⟩, rfl, by decide, empty_valid _, by decide, by decide, quietFlush_fits 0, by decide, by decide, rfl⟩

/-- The flush of 17 characters, at the last call of SET_CURSOR(16) and at the first one after it. -/
theorem witness_FailedFlushKeepsTheMessage_wrap :
    16 < (List.replicate 17 0x41#8).length ∧ 90 < ((quietFlush 17).draws 17).length
      ∧ (quietFlush 17).clear.draws.length + (quietFlush 17).home.draws.length + 64
          + (quietFlush 17).wrap.draws.length = 91
      ∧ 91 < ((quietFlush 17).draws 17).length ∧ (quietFlush 17).fits (List.replicate 17 0x41#8).length :=
  ⟨by decide, by decide, by decide, by decide, quietFlush_fits 17⟩

theorem witness_FlushPrintsTheMessage :
    let s := holding [(0, 0x0A#8)] ((quietFlush 0).draws 0)
    s.Idle ∧ s.lbOff ≤ 33 ∧ s.validIs [0x0A#8] ∧ [0x0A#8] = [] ++ 0x0A#8 :: [] ∧ 0x0A#8 ∉ ([] : List Byte)
      ∧ (quietFlush 0).fits ([] : List Byte).length ∧ s.draws = (quietFlush 0).draws ([] : List Byte).length ++ []
      ∧ (idle []).validIs [] :=
  ⟨⟨rfl, rfl⟩, by decide, ⟨rfl, by rintro (_ | i) b h <;> cases h; rfl⟩, rfl, by decide, quietFlush_fits 0,
    (List.append_nil _).symm, empty_valid []⟩

theorem witness_FailedFlushIsRepeated :
    let s := holding [(0, 0x0A#8)] ((quietFlush 0).draws 0)
    s.Idle ∧ s.lbOff + (List.replicate 32 0x58#8).length ≤ 33 ∧ s.validIs [0x0A#8]
      ∧ [0x0A#8] = [] ++ 0x0A#8 :: [] ∧ 0x0A#8 ∉ ([] : List Byte) ∧ (quietFlush 0).fits ([] : List Byte).length
      ∧ s.draws = (quietFlush 0).draws ([] : List Byte).length ++ [] :=
  ⟨⟨rfl, rfl⟩, by decide, ⟨rfl, by rintro (_ | i) b h <;> cases h; rfl⟩, rfl, by decide, quietFlush_fits 0,
    (List.append_nil _).symm⟩

/-- For the statements about every instruction that answers a next state: one that succeeds, one that fails, and each of the
other two errors. -/
theorem witness_FirstFailureEndsTheOperation :
    (idle [w, fail]).Idle ∧ (∀ r, Instr.pulse 0x2C#8 ≠ .response r)
      ∧ (∃ t, exec (.pulse 0x2C#8) (idle [w, fail]) = .next t ∧ t.response = some (.error (.busError [0x07#8])))
      ∧ (∃ t, exec (.pulse 0x2C#8) (idle [w, w]) = .next t ∧ t.response = some (.ok none))
      ∧ ∃ t, exec .busyProbeHi (idle [fail]) = .next t ∧ t.response = some (.error (.busError [0x07#8])) :=
  ⟨⟨rfl, rfl⟩, by simp, ⟨_, rfl, by decide⟩, ⟨_, rfl, by decide⟩, _, rfl, by decide⟩

theorem witness_ErrorsHaveTheirOperations :
    (∃ t, exec (.setCursor 32) (idle []) = .next t ∧ t.response = some (.error .invalidArgument))
      ∧ (∃ t, exec (.append 0 (List.replicate 34 0x41#8)) (idle []) = .next t
          ∧ t.response = some (.error .messageTooLong))
      ∧ ∃ t, exec (.encode 0#4 false false true) (idle []) = .next t :=
  ⟨⟨_, rfl, by decide⟩, ⟨_, rfl, by decide⟩, _, rfl⟩

theorem witness_SequencedWritesAreLegalFrames :
    (∃ t, exec (.sendData 0x48#8) (idle [w]) = .next t) ∧ (∀ b, Instr.sendData 0x48#8 ≠ .pulse b)
      ∧ (∀ n bl en rs, Instr.sendData 0x48#8 ≠ .frame n bl en rs)
      ∧ ∃ t, exec (.pulse 0x04#8) (idle [w]) = .next t :=
  ⟨⟨_, rfl⟩, by simp, by simp, _, rfl⟩

theorem witness_InFlightRequestsAreRefused :
    (waiting []).position ≠ [] ∧ ({ idle [] with response := some (.ok none) } : State).response ≠ none := by decide

/-- A request that ends and one that does not, with a host that takes the response and one that does not. -/
theorem witness_RequestsAreAnsweredAndTaken :
    let s := { idle [w, w] with rspReady := false }
    (idle [w, w]).Idle ∧ s.Idle ∧ (Instr.pulse 0x2C#8).format = .req ∧ s.resetLine = false
      ∧ (idle [w, w]).rspReady = true ∧ s.rspReady = false
      ∧ (∃ t, exec (.pulse 0x2C#8) (idle [w, w]) = .next t ∧ t.position = [])
      ∧ (∃ t, exec (.pulse 0x2C#8) s = .next t ∧ t.position = [])
      ∧ ∃ t, exec (.pulse 0x2C#8) (idle [w]) = .next t ∧ t.position ≠ [] :=
  ⟨⟨rfl, rfl⟩, ⟨rfl, rfl⟩, rfl, rfl, rfl, rfl, ⟨_, rfl, by decide⟩, ⟨_, rfl, by decide⟩, _, rfl, by decide⟩

theorem witness_EachCallTakesOneAnswer :
    (∀ h x, Instr.readBusy ≠ .readByte h x) ∧ ∃ t, exec .readBusy (idle [w, w, w]) = .next t :=
  ⟨by simp, _, rfl⟩

/-- PULSE answered in two parts, and PULSE that has ended. -/
theorem witness_GranularityDoesNotMatter :
    (idle []).Idle ∧ (idle []).resetLine = false
      ∧ (∃ t, exec (.pulse 0x2C#8) { idle [] with draws := [w] } = .next t ∧ t.position ≠ []) ∧ [w] ≠ []
      ∧ ∃ t, exec (.pulse 0x2C#8) { idle [] with draws := [w, w] } = .next t ∧ t.position = [] :=
  ⟨⟨rfl, rfl⟩, rfl, ⟨_, rfl, by decide⟩, by decide, _, rfl, by decide⟩

theorem witness_BoundedOperationsEnd :
    (0x04#8).getLsbD 2 = true ∧ 2 ≤ (idle [w, w]).draws.length ∧ 5 ≤ (idle busyRead.draws).draws.length
      ∧ 4 ≤ (idle [w, w, w, w]).draws.length := by decide

theorem witness_OperationsMakeTheirCalls :
    (idle [w, w, w, w]).Idle
      ∧ ([0#8, 0#8] : List Byte).length = 2 ∧ (idle [w, w]).draws = ([0#8, 0#8] : List Byte).map .ok ++ []
      ∧ (0x04#8).getLsbD 2 = true
      ∧ (idle busyRead.draws).draws = busyRead.draws ++ []
      ∧ ([0#8, 0#8, 0#8, 0#8] : List Byte).length = 4
      ∧ (idle [w, w, w, w]).draws = ([0#8, 0#8, 0#8, 0#8] : List Byte).map .ok ++ []
      ∧ busyOnce.clears ∧ (idle (busyOnce.draws ++ [])).draws = busyOnce.draws ++ [] ∧ (0 : Int) ≤ 31 ∧ (31 : Int) ≤ 31
      ∧ quietInit.clears ∧ (idle (quietInit.draws ++ [])).draws = quietInit.draws ++ [] :=
  ⟨⟨rfl, rfl⟩, rfl, by decide, by decide, by decide, rfl, by decide, busyOnce_clears, rfl, by decide, by decide, quietInit_clears,
    rfl⟩

theorem witness_OperationsMakeTheirCalls_flush :
    let s := holding [(0, 0x0A#8)] ((quietFlush 0).draws 0)
    s.Idle ∧ s.lbOff ≤ 33 ∧ s.validIs [0x0A#8] ∧ [0x0A#8] = [] ++ 0x0A#8 :: [] ∧ 0x0A#8 ∉ ([] : List Byte)
      ∧ (quietFlush 0).fits ([] : List Byte).length
      ∧ s.draws = (quietFlush 0).draws ([] : List Byte).length ++ [] :=
  ⟨⟨rfl, rfl⟩, by decide, ⟨rfl, by rintro (_ | i) b h <;> cases h; rfl⟩, rfl, by decide, quietFlush_fits 0,
    (List.append_nil _).symm⟩

theorem witness_ResetAbandonsTheOperation : ({ waiting [] with resetLine := true } : State).resetLine = true := rfl

/-- Each clause: a request, bytes that are none, an empty port, a response with a host that is ready and one that is not, a
call with and without an answer. -/
theorem witness_StepRunsTheDecodedItem :
    let s := { idle [] with response := some (.ok none) }
    (idle []).resetLine = false ∧ (idle []).Idle ∧ s.position = [] ∧ s.response ≠ none ∧ s.rspReady = true
      ∧ ({ s with rspReady := false } : State).rspReady = false ∧ [0x07#8] ≠ ([] : List Byte)
      ∧ decodeAs Format.req [0x07#8] = .ok (.readBusy, []) ∧ decodeAs Format.req [0x02#8] = .error .truncated
      ∧ (idle []).lane = .req ∧ (idle []).requests = [] ∧ (waiting [w]).awaiting = true ∧ (waiting [w]).draws ≠ []
      ∧ (waiting []).awaiting = true ∧ (waiting []).draws = [] :=
  ⟨rfl, ⟨rfl, rfl⟩, rfl, by decide, rfl, rfl, by decide, rfl, rfl, rfl, rfl, rfl, by decide, rfl, rfl⟩

/-- A good state in the middle of an operation, with a byte in the buffer, that steps. -/
theorem witness_StepKeepsTheInvariant :
    Inv { waiting [w] with lbBuf := [(0, 0x41#8)], lbOff := 1, cursor := some 31 }
      ∧ ∃ t, step { waiting [w] with lbBuf := [(0, 0x41#8)], lbOff := 1, cursor := some 31 } = .next t := by
  refine ⟨⟨rfl, by decide, ?_, ?_, rfl, .inr rfl, .inr rfl, rfl, rfl, rfl⟩, _, rfl⟩
  · intro i hi
    obtain rfl : i = 0 := Nat.lt_one_iff.mp hi
    rfl
  · rintro c ⟨⟩
    decide

/-- A good state with a request that reads the buffer. -/
theorem witness_GoodStatesNeverFault :
    Inv { idle [] with lbBuf := [(0, 0x41#8)], lbOff := 1, requests := [0x0A#8, 0x01#8, 0x01#8, 0x0A#8] } := by
  refine ⟨rfl, by decide, ?_, ?_, rfl, .inl rfl, .inl rfl, rfl, rfl, rfl⟩
  · intro i hi
    obtain rfl : i = 0 := Nat.lt_one_iff.mp hi
    rfl
  · rintro c ⟨⟩

end Sys2Proof.Tests
end

section
/-! A byte taken on its own (R84, R85), as one of two register writes. -/

namespace Sys2Proof.Machine

/-- The byte's high nibble goes to H at the first read and to L at the second (R84). -/
theorem State.takeRead_cases (s : State) (v : Byte) :
    s.takeRead v = (s.emit (.read v)).setH v ∨ s.takeRead v = (s.emit (.read v)).setL v := by
  unfold State.takeRead
  split
  · exact .inl rfl
  · exact .inr rfl

@[simp] theorem State.takeRead_position (s : State) (v : Byte) : (s.takeRead v).position = s.position := by
  rcases s.takeRead_cases v with e | e <;> rw [e] <;> rfl

theorem State.takeRead_sameOutside (s : State) (v : Byte) : SameOutside s (s.takeRead v) := by
  rcases s.takeRead_cases v with e | e <;> rw [e] <;> exact ⟨rfl, rfl, rfl, rfl, rfl, rfl⟩

end Sys2Proof.Machine
end

section
/-! Flags along pseudocode (R28, R124): no operation tests a flag that it has not computed itself, so a run never stops at a
flag test, and an operation in flight waits at a transport call. -/

namespace Sys2Proof.Machine

open Sys2Proof

/-! ## Which flags are ready -/

/-- More values at the start make no test less ready. -/
theorem flagsReady_mono {h l b h' l' b' : Bool} (hh : h = true → h' = true) (hl : l = true → l' = true)
    (hb : b = true → b' = true) {code : List Action} (hc : flagsReady h l b code = true) :
    flagsReady h' l' b' code = true := by
  induction code generalizing h l b h' l' b' with
  | nil => rfl
  | cons a k ih =>
    cases a with
    | readHi => exact ih (fun _ => rfl) hl hb hc
    | readLo => exact ih hh (fun _ => rfl) hb hc
    | status =>
      simp only [flagsReady, Bool.and_eq_true] at hc ⊢
      obtain ⟨⟨hH, hL⟩, hk⟩ := hc
      exact ⟨⟨hh hH, hl hL⟩, ih hh hl (fun _ => rfl) hk⟩
    | testBusy | answerBusy =>
      simp only [flagsReady, Bool.and_eq_true] at hc ⊢
      obtain ⟨hB, hk⟩ := hc
      exact ⟨hb hB, ih hh hl hb hk⟩
    | write _ | setPhase _ | setCursor _ | emptyBuffer | answer _ | ret => exact ih hh hl hb hc

/-- The code computes every flag it tests. -/
def OwnFlags (code : List Action) : Prop := flagsReady false false false code = true

theorem OwnFlags.ready {code : List Action} (hc : OwnFlags code) (h l b : Bool) : flagsReady h l b code = true :=
  flagsReady_mono (by simp) (by simp) (by simp) hc

theorem flagsReady_append {c1 c2 : List Action} {h l b : Bool} (h1 : flagsReady h l b c1 = true) (h2 : OwnFlags c2) :
    flagsReady h l b (c1 ++ c2) = true := by
  induction c1 generalizing h l b with
  | nil => exact h2.ready h l b
  | cons a k ih =>
    cases a with
    | status | testBusy | answerBusy =>
      simp only [List.cons_append, flagsReady, Bool.and_eq_true] at h1 ⊢
      exact ⟨h1.1, ih h1.2⟩
    | write _ | readHi | readLo | setPhase _ | setCursor _ | emptyBuffer | answer _ | ret => exact ih h1

theorem OwnFlags.append {c1 c2 : List Action} (h1 : OwnFlags c1) (h2 : OwnFlags c2) : OwnFlags (c1 ++ c2) :=
  flagsReady_append h1 h2

theorem ownFlags_printLoop (text : List Byte) (i : Nat) : OwnFlags (printLoopCode i text) := by
  induction text generalizing i with
  | nil => rfl
  | cons b text ih =>
    rw [printLoopCode]
    refine .append (.append ?_ rfl) (ih (i + 1))
    split <;> rfl

theorem ownFlags_flush (text : List Byte) : OwnFlags (flushCode text) :=
  .append (.append (.append rfl rfl) (ownFlags_printLoop text 0)) rfl

theorem Program.ownFlags {i : Instr} {code : List Action} (hc : Program i code) : OwnFlags code := by
  cases hc with
  | flush text => exact (ownFlags_flush text).append rfl
  | append _ _ text => exact (ownFlags_flush text).append rfl
  | _ => rfl

/-! ## Along a run -/

/-- No flag is tested before it is computed when `code` goes on from `s`. -/
def State.Ready (code : List Action) (s : State) : Prop :=
  flagsReady s.H.isSome s.L.isSome s.busy.isSome code = true

theorem OwnFlags.stateReady {code : List Action} (hc : OwnFlags code) (s : State) : s.Ready code := hc.ready _ _ _

theorem busyFlag_isSome (h l : Option Nibble) : (busyFlag h l).isSome = (h.isSome && l.isSome) := by
  cases h <;> cases l <;> rfl

theorem ready_testBusy {k : List Action} {s : State} (h : State.Ready (.testBusy :: k) s) :
    s.busy.isSome = true ∧ s.Ready k := by
  simpa [State.Ready, flagsReady] using h

theorem ready_answerBusy {k : List Action} {s : State} (h : State.Ready (.answerBusy :: k) s) :
    s.busy.isSome = true ∧ s.Ready k := by
  simpa [State.Ready, flagsReady] using h

theorem ready_kept : Kept State.Ready where
  goTo _ h := h
  withDraws _ h := h
  status {k s} h := by
    simp only [State.Ready, flagsReady, Bool.and_eq_true] at h
    obtain ⟨⟨hH, hL⟩, hk⟩ := h
    show flagsReady s.H.isSome s.L.isSome (busyFlag s.H s.L).isSome k = true
    rw [busyFlag_isSome]
    exact flagsReady_mono id id (by simp [hH, hL]) hk
  busy {k s} h _ := by
    show flagsReady true true true k = true
    exact flagsReady_mono (by simp) (by simp) (by simp) (ready_testBusy h).2
  clear h _ := (ready_testBusy h).2
  setPhase h := h
  setCursor h := h
  emptyBuffer h := h
  answer _ := rfl
  answerBusy _ _ := rfl
  ret _ := rfl
  write h := h
  readHi h := h
  readLo h := h
  writeErr _ := rfl
  readHiErr _ := rfl
  readLoErr _ := rfl

/-- No operation is in flight, or the block waits at a transport call (R27, R238). -/
def State.Waits (s : State) : Prop := s.position = [] ∨ s.awaiting = true

theorem settle_waits {code : List Action} {s : State} (h : s.Ready code) : (State.settle code s).Waits := by
  induction code generalizing s with
  | nil => exact .inl rfl
  | cons a k ih =>
    cases a with
    | write _ | readHi | readLo => exact .inr rfl
    | status => exact ih (ready_kept.status h)
    | testBusy =>
      rcases hb : s.busy with _ | _ | _
      · have := (ready_testBusy h).1; simp [hb] at this
      · simpa only [State.settle, hb] using ih (ready_testBusy h).2
      · simp only [State.settle, hb]; exact .inr rfl
    | setPhase _ => exact ih (ready_kept.setPhase h)
    | setCursor _ => exact ih (ready_kept.setCursor h)
    | emptyBuffer => exact ih (ready_kept.emptyBuffer h)
    | answer _ | ret => exact .inl rfl
    | answerBusy =>
      obtain ⟨b, hb⟩ := Option.isSome_iff_exists.mp (ready_answerBusy h).1
      simp only [State.settle, hb]; exact .inl rfl

theorem call_waits {s : State} (d : Draw) (hw : s.awaiting = true) (h : s.Ready s.position) : (s.call d).Waits := by
  rcases s.call_cases d with ⟨v, k, x, hp, -, hc⟩ | ⟨v, k, e, -, -, hc⟩ | ⟨k, r, hp, -, hc⟩ | ⟨k, r, hp, -, hc⟩
    | ⟨a, k, e, -, -, -, hc⟩ | ⟨hn, -⟩
  · exact hc ▸ settle_waits (ready_kept.write (hp ▸ h))
  · exact hc ▸ .inl rfl
  · exact hc ▸ settle_waits (ready_kept.readHi (hp ▸ h))
  · exact hc ▸ settle_waits (ready_kept.readLo (hp ▸ h))
  · exact hc ▸ .inl rfl
  · rw [hw] at hn; cases hn

theorem run_waits (ds : List Draw) {s : State} (hw : s.Waits) (h : s.Ready s.position) : (State.run ds s).Waits := by
  induction ds generalizing s with
  | nil => exact hw
  | cons d ds ih =>
    cases ha : s.awaiting with
    | true => rw [State.run_waiting ha]; exact ih (call_waits d ha h) (ready_kept.call d h)
    | false => rw [State.run_notWaiting ha]; exact hw

theorem go_waits (ds : List Draw) {code : List Action} {s : State} (h : s.Ready code) : (State.go ds code s).Waits :=
  run_waits ds (settle_waits h) (ready_kept.settle h)

/-- Whatever an idle block does with an instruction, it then has ended or waits at a transport call. -/
theorem Answers.waits {i : Instr} {s t : State} (hi : s.Idle) (h : Answers i s t) : t.Waits := by
  cases h with
  | runs hc _ => exact go_waits _ (hc.ownFlags.stateReady _)
  | flushes => exact go_waits _ ((Program.append 0 _ _).ownFlags.stateReady _)
  | stores | overflows | outOfRange | encodes | presents => exact .inl rfl
  | reads => exact .inl ((s.takeRead_position _).trans hi.1)
  | takes => exact .inl hi.1

end Sys2Proof.Machine
end

section
/-! The invariant: what a run, an answered instruction and a step keep of it. -/

namespace Sys2Proof.Machine

open Sys2Proof

/-! ## The registers, the buffer and the lines -/

/-- The part of the invariant about the line buffer (R30). -/
structure BufferSound (m : Memory) (n : Nat) : Prop where
  memory : m.wf = true
  offset : n ≤ Config.BUF_CAP
  stored : ∀ i, i < n → (m.read i).isSome = true

/-- The part of the invariant that does not speak of the position. -/
def State.Sound (s : State) : Prop :=
  BufferSound s.lbBuf s.lbOff ∧ (∀ c, s.cursor = some c → c < Config.CELLS) ∧ s.port = portAfter s.trace

theorem Inv.sound {s : State} (h : Inv s) : s.Sound :=
  ⟨⟨h.memory, h.offset, h.stored⟩, h.cursor, h.port⟩

theorem BufferSound.empty {m : Memory} {n : Nat} (h : BufferSound m n) : BufferSound m 0 :=
  ⟨h.memory, Nat.zero_le _, fun _ hi => absurd hi (Nat.not_lt_zero _)⟩

/-- Storing at the end of the valid part makes it longer (R200). -/
theorem BufferSound.store {m m' : Memory} {n : Nat} {bytes : List Byte} (h : BufferSound m n)
    (hl : n + bytes.length ≤ Config.BUF_CAP) (hm : lbStore m n bytes = .ok m') :
    BufferSound m' (n + bytes.length) := by
  refine ⟨lbStore_wf h.memory hm, hl, fun i hi => ?_⟩
  rw [lbStore_read hm]
  split
  · next hin => rw [List.getElem?_eq_getElem (by omega)]; rfl
  · next hout => exact h.stored i (by omega)

/-- The lines after one more event (R33). -/
theorem portAfter_snoc (evs : List Event) (e : Event) : portAfter (evs ++ [e]) = portFrom (portAfter evs) [e] :=
  portFrom_append none evs [e]

theorem legal_ordinary : Ordinary Action.legal where
  frame _ _ := rfl
  frameLow _ _ := rfl
  hi := rfl
  lo := rfl
  readHi := rfl
  readLo := rfl
  status := rfl
  testBusy := rfl
  cursor _ h := decide_eq_true h
  empty := rfl
  answer _ := rfl
  answerBusy := rfl
  ret := rfl

/-- An event that leaves the lines alone. -/
theorem State.Sound.emit {s : State} (h : s.Sound) {e : Event} (he : ∀ p, portFrom p [e] = p) : (s.emit e).Sound := by
  obtain ⟨hbuf, hcursor, hport⟩ := h
  refine ⟨hbuf, hcursor, ?_⟩
  show s.port = portAfter (s.trace ++ [e])
  rw [portAfter_snoc, he, hport]

theorem sound_respected : Respects Action.legal State.Sound where
  goTo _ h := h
  withDraws _ h := h
  setBusy _ h := h
  sleep h := h.emit fun _ => rfl
  setPhase _ h := h
  setCursor hc := fun ⟨hbuf, _, hport⟩ => ⟨hbuf, by rintro _ ⟨⟩; exact of_decide_eq_true hc, hport⟩
  emptyBuffer _ := fun ⟨hbuf, hrest⟩ => ⟨hbuf.empty, hrest⟩
  answer _ h := h
  ret h := h
  write {s v} _ := fun ⟨hbuf, hcursor, _⟩ => ⟨hbuf, hcursor, (portAfter_snoc s.trace (.write v)).symm⟩
  read _ h := h.emit fun _ => rfl
  setH _ h := h
  setL _ h := h
  writeErr {s v} _ _ := fun ⟨hbuf, hcursor, _⟩ => ⟨hbuf, hcursor, (portAfter_snoc s.trace (.writeErr v)).symm⟩
  readErr _ h := h.emit fun _ => rfl

theorem State.Sound.takeRead {s : State} (h : s.Sound) (v : Byte) : (s.takeRead v).Sound := by
  rcases s.takeRead_cases v with e | e <;> rw [e] <;> exact h.emit fun _ => rfl

/-! ## Runs -/

theorem response_none_of_cons {a : Action} {k : List Action} {s : State} (h : a :: k = [] ∨ s.response = none) :
    s.response = none :=
  h.resolve_left (List.cons_ne_nil a k)

/-- While code is still to come no response stands. -/
theorem answered_kept : Kept (fun c s => c = [] ∨ s.response = none) where
  goTo _ h := h
  withDraws _ h := h
  status h := .inr (response_none_of_cons h)
  busy h _ := .inr (response_none_of_cons h)
  clear h _ := .inr (response_none_of_cons h)
  setPhase h := .inr (response_none_of_cons h)
  setCursor h := .inr (response_none_of_cons h)
  emptyBuffer h := .inr (response_none_of_cons h)
  answer _ := .inl rfl
  answerBusy _ _ := .inl rfl
  ret _ := .inl rfl
  write h := .inr (response_none_of_cons h)
  readHi h := .inr (response_none_of_cons h)
  readLo h := .inr (response_none_of_cons h)
  writeErr _ := .inl rfl
  readHiErr _ := .inl rfl
  readLoErr _ := .inl rfl

theorem State.go_sameOutside (ds : List Draw) (code : List Action) (s : State) : SameOutside s (State.go ds code s) :=
  (State.settle_sameOutside code s).trans (State.run_sameOutside ds _)

/-- Running legal code whose flags are ready from sound registers ends in a good state. -/
theorem inv_go {code : List Action} {s : State} (ds : List Draw) (hs : s.Sound) (hl : s.lane = .req)
    (ha : s.response = none) (hc : code.all Action.legal = true) (hr : s.Ready code) : Inv (State.go ds code s) := by
  obtain ⟨hlegal, ⟨hbuf, hcursor, hport⟩⟩ := (sound_respected.kept legal_ordinary).go ds ⟨hc, hs⟩
  exact
    { memory := hbuf.memory
      offset := hbuf.offset
      stored := hbuf.stored
      cursor := hcursor
      port := hport
      waits := go_waits ds hr
      answered := answered_kept.go ds (.inr ha)
      legal := hlegal
      ready := ready_kept.go ds hr
      lane := (State.go_sameOutside ds code s).lane.trans hl }

/-- With no operation in flight only the registers matter. -/
theorem inv_of_noPosition {s : State} (hp : s.position = []) (hs : s.Sound) (hl : s.lane = .req) : Inv s where
  memory := hs.1.memory
  offset := hs.1.offset
  stored := hs.1.stored
  cursor := hs.2.1
  port := hs.2.2
  waits := .inl hp
  answered := .inl hp
  legal := by rw [hp]; rfl
  ready := by rw [hp]; rfl
  lane := hl

/-! ## An instruction -/

theorem Answers.inv {i : Instr} {s t : State} (hs : s.Sound) (hl : s.lane = .req) (hi : s.Idle) (h : Answers i s t) :
    Inv t := by
  cases h with
  | runs hc _ =>
    have hlegal := legal_ordinary.program hc (fun _ _ => rfl) (fun _ _ => ⟨rfl, rfl⟩) (fun _ _ _ _ _ => rfl)
    exact inv_go _ hs hl hi.2 hlegal (hc.ownFlags.stateReady _)
  | @flushes _ offset bytes text m ho hfit hm =>
    subst ho
    have hc := Program.append s.lbOff bytes text
    have hlegal := legal_ordinary.program hc (by simp) (by simp) (by simp)
    exact inv_go _ ⟨hs.1.store hfit hm, hs.2⟩ hl hi.2 hlegal (hc.ownFlags.stateReady _)
  | stores ho hfit hm =>
    subst ho
    exact inv_of_noPosition rfl ⟨hs.1.store hfit hm, hs.2⟩ hl
  | overflows => exact inv_of_noPosition rfl ⟨hs.1.empty, hs.2⟩ hl
  | outOfRange | encodes | presents => exact inv_of_noPosition rfl hs hl
  | reads =>
    exact inv_of_noPosition ((s.takeRead_position _).trans hi.1) (hs.takeRead _) ((s.takeRead_sameOutside _).lane.trans hl)
  | takes => exact inv_of_noPosition hi.1 hs hl

/-! ## A step -/

theorem settle_of_awaiting {s : State} (h : s.awaiting = true) : State.settle s.position s = s := by
  have hg : State.settle s.position s = s.goTo s.position := by
    unfold State.awaiting at h
    split at h
    · cases h
    · next a k hp =>
      rw [hp]
      cases a with
      | write _ | readHi | readLo => rfl
      | status | testBusy | setPhase _ | setCursor _ | emptyBuffer | answer _ | answerBusy | ret => cases h
  exact hg

/-- An operation that waits at a transport call goes on with the answers that stand, or with one free answer (log 2). -/
theorem resume_of_awaiting {s : State} (h : s.awaiting = true) :
    (s.draws ≠ [] ∧ s.resume = State.run s.draws s)
    ∨ (s.draws = [] ∧ s.resume = State.run [Config.freeDraw s.drawCount] { s with drawCount := s.drawCount + 1 }) := by
  simp only [State.resume, settle_of_awaiting h, h]
  cases hd : s.draws <;> simp

theorem inv_reset : Inv State.reset :=
  inv_of_noPosition rfl ⟨⟨rfl, by decide, fun _ hi => absurd hi (Nat.not_lt_zero _)⟩, by simp [State.reset], rfl⟩ rfl

theorem Inv.applyReset (s : State) : Inv s.applyReset :=
  inv_of_noPosition rfl inv_reset.sound rfl

theorem Inv.run {s : State} (hs : Inv s) (ha : s.awaiting = true) (ds : List Draw) : Inv (State.run ds s) := by
  have hp : s.position ≠ [] := by intro hp; simp [State.awaiting, hp] at ha
  have := inv_go ds hs.sound hs.lane (hs.answered.resolve_left hp) hs.legal hs.ready
  rwa [State.go, settle_of_awaiting ha] at this

theorem Inv.drawCount {s : State} (hs : Inv s) (n : Nat) : Inv { s with drawCount := n } :=
  { hs with }

theorem Inv.resume {s : State} (hs : Inv s) (ha : s.awaiting = true) : Inv s.resume := by
  rcases resume_of_awaiting ha with ⟨-, h⟩ | ⟨-, h⟩ <;> rw [h]
  · exact hs.run ha _
  · exact (hs.drawCount (s.drawCount + 1)).run ha _

theorem Inv.handshake {s : State} (hs : Inv s) (hp : s.position = []) : Inv s.handshake := by
  rcases s.handshake_cases with ⟨-, h⟩ | ⟨-, h⟩ <;> rw [h]
  · exact inv_of_noPosition hp hs.sound hs.lane
  · exact hs

/-- An idle block that takes a request (R75). -/
theorem Inv.fetched {s t : State} (hs : Inv s) (hr : s.resetLine = false) (hi : s.Idle) (h : step s = .next t) :
    Inv t := by
  rw [step_idle hr hi] at h
  split at h
  · cases h; exact hs
  · cases h
  · next i u hf =>
    obtain ⟨rest, -, hu⟩ := State.fetch_item hf
    have hui : u.Idle := hu ▸ hi
    exact (exec_answers hui h).inv (hu ▸ hs.sound) (hu ▸ rfl) hui

theorem inv_step {s t : State} (hs : Inv s) (h : step s = .next t) : Inv t := by
  by_cases hr : s.resetLine = true
  · rw [step_reset hr] at h
    cases h
    exact .applyReset s
  have hr : s.resetLine = false := by simpa using hr
  by_cases hp : s.position = []
  · by_cases ha : s.response = none
    · exact hs.fetched hr ⟨hp, ha⟩ h
    · rw [step_answered hr hp ha] at h
      cases h
      exact hs.handshake hp
  · rw [step_inFlight hr hp] at h
    cases h
    exact hs.resume (hs.waits.resolve_left hp)

end Sys2Proof.Machine
end

section
/-! Who writes the state registers (R21, R22, R30): a run of pseudocode without a write of a register leaves it, and what an
answered instruction leaves alone. -/

namespace Sys2Proof.Machine

open Sys2Proof

/-! ## Statements and instructions that write a register -/

/-- The state registers that pseudocode can write. -/
inductive Register where
  | phase
  | cursor
  | lbOff

/-- The statement does not write the register. -/
def Action.leaves : Register → Action → Bool
  | .phase, .setPhase _ => false
  | .cursor, .setCursor _ => false
  | .lbOff, .emptyBuffer => false
  | _, _ => true

/-- The instruction can write the register (R21, R22, R30). -/
def mayWrite : Register → Instr → Bool
  | .phase, .init => true
  | .cursor, .init | .cursor, .clear | .cursor, .setCursor _ | .cursor, .append _ _ | .cursor, .flush => true
  | .lbOff, .append _ _ | .lbOff, .flush => true
  | _, _ => false

theorem mayWrite_phase {i : Instr} (h : i ≠ .init) : mayWrite .phase i = false := by
  cases i with
  | init => exact absurd rfl h
  | _ => rfl

theorem mayWrite_cursor {i : Instr} (hinit : i ≠ .init) (hclear : i ≠ .clear) (hset : ∀ pos, i ≠ .setCursor pos)
    (happend : ∀ o bs, i ≠ .append o bs) (hflush : i ≠ .flush) : mayWrite .cursor i = false := by
  cases i with
  | init => exact absurd rfl hinit
  | clear => exact absurd rfl hclear
  | setCursor pos => exact absurd rfl (hset pos)
  | append o bs => exact absurd rfl (happend o bs)
  | flush => exact absurd rfl hflush
  | _ => rfl

theorem mayWrite_lbOff {i : Instr} (happend : ∀ o bs, i ≠ .append o bs) (hflush : i ≠ .flush) :
    mayWrite .lbOff i = false := by
  cases i with
  | append o bs => exact absurd rfl (happend o bs)
  | flush => exact absurd rfl hflush
  | _ => rfl

theorem ordinary_leaves_phase : Ordinary (Action.leaves .phase) where
  frame _ _ := rfl
  frameLow _ _ := rfl
  hi := rfl
  lo := rfl
  readHi := rfl
  readLo := rfl
  status := rfl
  testBusy := rfl
  cursor _ _ := rfl
  empty := rfl
  answer _ := rfl
  answerBusy := rfl
  ret := rfl

theorem Program.leaves {i : Instr} {code : List Action} {r : Register} (hc : Program i code) (hw : mayWrite r i = false) :
    code.all (Action.leaves r) = true := by
  cases hc with
  | init =>
    cases r with
    | phase | cursor => cases hw
    | lbOff => rfl
  | clear | setCursor =>
    cases r with
    | cursor => cases hw
    | phase | lbOff => rfl
  | flush text =>
    cases r with
    | phase => rw [List.all_append, ordinary_leaves_phase.flush]; rfl
    | cursor | lbOff => cases hw
  | append _ _ text =>
    cases r with
    | phase => rw [List.all_append, ordinary_leaves_phase.flush]; rfl
    | cursor | lbOff => cases hw
  | _ => cases r <;> rfl

/-! ## Runs -/

/-- `s` has the value of register `r` that `s0` has. -/
def State.Agrees (r : Register) (s0 s : State) : Prop :=
  (r = .phase → s.phase = s0.phase) ∧ (r = .cursor → s.cursor = s0.cursor) ∧ (r = .lbOff → s.lbOff = s0.lbOff)

theorem State.Agrees.refl (r : Register) (s : State) : s.Agrees r s := ⟨fun _ => rfl, fun _ => rfl, fun _ => rfl⟩

theorem agrees_kept (r : Register) (s0 : State) :
    Kept (fun c s => c.all (Action.leaves r) = true ∧ s0.Agrees r s) where
  goTo _ h := h
  withDraws _ h := h
  status h := ⟨(Bool.and_eq_true_iff.mp h.1).2, h.2⟩
  busy h _ := by
    refine ⟨?_, h.2⟩
    rw [List.all_append, (Bool.and_eq_true_iff.mp h.1).2]
    cases r <;> rfl
  clear h _ := ⟨(Bool.and_eq_true_iff.mp h.1).2, h.2⟩
  setPhase h := by
    obtain ⟨hall, -, hcursor, hoff⟩ := h
    exact ⟨(Bool.and_eq_true_iff.mp hall).2, (by rintro rfl; cases (Bool.and_eq_true_iff.mp hall).1), hcursor, hoff⟩
  setCursor h := by
    obtain ⟨hall, hphase, -, hoff⟩ := h
    exact ⟨(Bool.and_eq_true_iff.mp hall).2, hphase, (by rintro rfl; cases (Bool.and_eq_true_iff.mp hall).1), hoff⟩
  emptyBuffer h := by
    obtain ⟨hall, hphase, hcursor, -⟩ := h
    exact ⟨(Bool.and_eq_true_iff.mp hall).2, hphase, hcursor, (by rintro rfl; cases (Bool.and_eq_true_iff.mp hall).1)⟩
  answer h := ⟨rfl, h.2⟩
  answerBusy h _ := ⟨rfl, h.2⟩
  ret h := ⟨rfl, h.2⟩
  write h := ⟨(Bool.and_eq_true_iff.mp h.1).2, h.2⟩
  readHi h := ⟨(Bool.and_eq_true_iff.mp h.1).2, h.2⟩
  readLo h := ⟨(Bool.and_eq_true_iff.mp h.1).2, h.2⟩
  writeErr h := ⟨rfl, h.2⟩
  readHiErr h := ⟨rfl, h.2⟩
  readLoErr h := ⟨rfl, h.2⟩

/-! ## An instruction -/

theorem Answers.agrees {i : Instr} {s t : State} {r : Register} (h : Answers i s t) (hw : mayWrite r i = false) :
    s.Agrees r t := by
  have hrun : ∀ {code : List Action} {u : State}, Program i code → s.Agrees r u → s.Agrees r (State.go s.draws code u) :=
    fun hc hu => ((agrees_kept r s).go s.draws ⟨hc.leaves hw, hu⟩).2
  have happend : ∀ {o : Nat} {bs : List Byte} {u : State}, i = .append o bs → u.phase = s.phase → s.Agrees r u := by
    rintro o bs u rfl hu
    cases r with
    | phase => exact ⟨fun _ => hu, by simp, by simp⟩
    | cursor | lbOff => cases hw
  cases h with
  | runs hc _ => exact hrun hc (.refl r s)
  | flushes => exact hrun (.append _ _ _) (happend rfl rfl)
  | stores | overflows => exact happend rfl rfl
  | outOfRange | encodes | presents | takes => exact .refl r s
  | reads =>
    rcases s.takeRead_cases _ with e | e <;> rw [e] <;> exact .refl r s

/-- Outside the registers, an instruction changes at most the buffer's memory, and that in APPEND only (R30). -/
theorem Answers.sameOutside {i : Instr} {s t : State} (h : Answers i s t) :
    ∃ m, SameOutside (s.setLbBuf m) t ∧ ((∀ o bs, i ≠ .append o bs) → m = s.lbBuf) := by
  cases h with
  | runs => exact ⟨s.lbBuf, State.go_sameOutside _ _ s, fun _ => rfl⟩
  | @flushes _ offset bytes text m =>
    have hstore : SameOutside (s.setLbBuf m) (s.stored m (offset + bytes.length)) := ⟨rfl, rfl, rfl, rfl, rfl, rfl⟩
    exact ⟨m, hstore.trans (State.go_sameOutside _ _ _), by simp⟩
  | @stores _ _ _ m => exact ⟨m, ⟨rfl, rfl, rfl, rfl, rfl, rfl⟩, by simp⟩
  | overflows | outOfRange | encodes | presents | takes =>
    exact ⟨s.lbBuf, ⟨rfl, rfl, rfl, rfl, rfl, rfl⟩, fun _ => rfl⟩
  | reads => exact ⟨s.lbBuf, s.takeRead_sameOutside _, fun _ => rfl⟩

end Sys2Proof.Machine
end

section
/-! Fields that no operation reads: where two states differ only in such a field, every operation does the same in both. -/

namespace Sys2Proof.Machine

open Sys2Proof

/-! ## Updates and reads -/

/-- The updates of which the operations are made. -/
inductive Update : (State → State) → Prop
  | goTo (p : List Action) : Update (·.goTo p)
  | withDraws (ds : List Draw) : Update (·.withDraws ds)
  | emit (e : Event) : Update (·.emit e)
  | setH (v : Byte) : Update (·.setH v)
  | setL (v : Byte) : Update (·.setL v)
  | setBusy (b : Option Bool) : Update (·.setBusy b)
  | setPhase (p : Phase) : Update (·.setPhase p)
  | setCursor (pos : Nat) : Update (·.setCursor pos)
  | setLbBuf (m : Memory) : Update (·.setLbBuf m)
  | setLbOff (n : Nat) : Update (·.setLbOff n)
  | idle : Update State.idle
  | finish (r : Response) : Update (·.finish r)
  | wrote (v : Byte) : Update (·.wrote v)
  | writeFailed (v : Byte) : Update (·.writeFailed v)

/-- The states have the same values in every field that an operation reads. -/
structure SameReads (s t : State) : Prop where
  lbBuf : t.lbBuf = s.lbBuf
  lbOff : t.lbOff = s.lbOff
  H : t.H = s.H
  L : t.L = s.L
  busy : t.busy = s.busy
  position : t.position = s.position
  response : t.response = s.response
  draws : t.draws = s.draws

theorem SameReads.refl (s : State) : SameReads s s := ⟨rfl, rfl, rfl, rfl, rfl, rfl, rfl, rfl⟩

/-- States that `R` relates differ only in what no operation reads, and every update keeps them related. -/
structure Unread (R : State → State → Prop) : Prop where
  reads : ∀ {s t}, R s t → SameReads s t
  update : ∀ {f s t}, Update f → R s t → R (f s) (f t)

/-- The outcomes are of one kind, with related next states or the same reason to stop. -/
def SameOutcome (R : State → State → Prop) (o o' : Host.Outcome State Fault Refusal) : Prop :=
  match o with
  | .next t => ∃ t', o' = .next t' ∧ R t t'
  | .fault f => o' = .fault f
  | .refused r => o' = .refused r

variable {R : State → State → Prop}

/-! ## Runs -/

theorem Unread.settle (h : Unread R) (code : List Action) {s t : State} (r : R s t) :
    R (State.settle code s) (State.settle code t) := by
  induction code generalizing s t with
  | nil => exact h.update (.goTo []) r
  | cons a k ih =>
    have hreads := h.reads r
    cases a with
    | write _ | readHi | readLo => exact h.update (.goTo _) r
    | status =>
      simp only [State.settle, hreads.H, hreads.L]
      exact ih (h.update (.setBusy _) r)
    | testBusy =>
      simp only [State.settle, hreads.busy]
      split
      · exact h.update (.goTo _) (h.update (.emit _) r)
      · exact ih r
      · exact h.update (.goTo _) r
    | setPhase p => exact ih (h.update (.setPhase p) r)
    | setCursor pos => exact ih (h.update (.setCursor pos) r)
    | emptyBuffer => exact ih (h.update (.setLbOff 0) r)
    | answer v => exact h.update (.finish _) r
    | answerBusy =>
      simp only [State.settle, hreads.busy]
      split
      · exact h.update (.finish _) r
      · exact h.update (.goTo _) r
    | ret => exact h.update .idle r

theorem Unread.call (h : Unread R) (d : Draw) {s t : State} (r : R s t) : R (s.call d) (t.call d) := by
  unfold State.call
  rw [(h.reads r).position]
  split
  · exact h.settle _ (h.update (.wrote _) r)
  · exact h.update (.finish _) (h.update (.writeFailed _) r)
  · exact h.settle _ (h.update (.setH _) (h.update (.emit _) r))
  · exact h.update (.finish _) (h.update (.emit _) r)
  · exact h.settle _ (h.update (.setL _) (h.update (.emit _) r))
  · exact h.update (.finish _) (h.update (.emit _) r)
  · exact r

theorem Unread.run (h : Unread R) (ds : List Draw) {s t : State} (r : R s t) : R (State.run ds s) (State.run ds t) := by
  induction ds generalizing s t with
  | nil => exact h.update (.withDraws []) r
  | cons d ds ih =>
    have hw : t.awaiting = s.awaiting := by unfold State.awaiting; rw [(h.reads r).position]
    simp only [State.run, hw]
    split
    · exact ih (h.call d r)
    · exact h.update (.withDraws _) r

/-! ## Instructions -/

theorem Unread.idle (h : Unread R) {s t : State} (r : R s t) (hi : s.Idle) : t.Idle :=
  ⟨(h.reads r).position.trans hi.1, (h.reads r).response.trans hi.2⟩

theorem Unread.perform (h : Unread R) {s t : State} (r : R s t) (hi : s.Idle) (code : List Action) :
    SameOutcome R (perform code s) (perform code t) := by
  rw [perform_eq_go hi, perform_eq_go (h.idle r hi), (h.reads r).draws]
  exact ⟨_, rfl, h.run s.draws (h.settle code r)⟩

/-- An outcome that is read off the idle state at once. -/
theorem Unread.whenIdle (h : Unread R) {s t : State} (r : R s t) (hi : s.Idle)
    {k : State → Host.Outcome State Fault Refusal} (hk : SameOutcome R (k s) (k t)) :
    SameOutcome R (whenIdle s k) (whenIdle t k) := by
  rwa [whenIdle_idle hi, whenIdle_idle (h.idle r hi)]

theorem Unread.answerNow (h : Unread R) {s t : State} (r : R s t) (hi : s.Idle) (a : Response) :
    SameOutcome R (answerNow a s) (answerNow a t) :=
  h.whenIdle r hi ⟨_, rfl, h.update (.finish a) r⟩

theorem Unread.message (h : Unread R) {s t : State} (r : R s t) : t.message = s.message := by
  unfold State.message
  rw [(h.reads r).lbBuf, (h.reads r).lbOff]

theorem Unread.appendStored (h : Unread R) {s t : State} (r : R s t) (hi : s.Idle) (bytes : List Byte) :
    SameOutcome R (appendStored bytes s) (appendStored bytes t) := by
  unfold Machine.appendStored
  rw [h.message r]
  split
  · rfl
  · exact ⟨_, rfl, h.update (.finish _) r⟩
  · exact h.perform r hi _

theorem Unread.append (h : Unread R) {s t : State} (r : R s t) (hi : s.Idle) (offset : Nat) (bytes : List Byte) :
    SameOutcome R (execAppend offset bytes s) (execAppend offset bytes t) := by
  refine h.whenIdle r hi ?_
  simp only [(h.reads r).lbOff, (h.reads r).lbBuf]
  split
  · rfl
  · split
    · exact ⟨_, rfl, h.update (.finish _) (h.update (.setLbOff 0) r)⟩
    · split
      · rfl
      · exact h.appendStored (h.update (.setLbOff _) (h.update (.setLbBuf _) r)) (by exact hi) bytes

theorem Unread.flush (h : Unread R) {s t : State} (r : R s t) (hi : s.Idle) :
    SameOutcome R (execFlush s) (execFlush t) := by
  refine h.whenIdle r hi ?_
  simp only [h.message r]
  split
  · rfl
  · rfl
  · exact h.perform r hi _

theorem Unread.takeRead (h : Unread R) {s t : State} (r : R s t) (v : Byte) : R (s.takeRead v) (t.takeRead v) := by
  unfold State.takeRead
  rw [(h.reads r).H]
  split
  · exact h.update (.setH v) (h.update (.emit _) r)
  · exact h.update (.setL v) (h.update (.emit _) r)

/-- Every instruction does the same in related states. -/
theorem Unread.exec (h : Unread R) {s t : State} (r : R s t) (hi : s.Idle) (i : Instr) :
    SameOutcome R (exec i s) (exec i t) := by
  cases i with
  | setCursor pos =>
    simp only [Machine.exec, execSetCursor]
    split
    · exact h.perform r hi _
    · exact h.whenIdle r hi ⟨_, rfl, h.update (.finish _) r⟩
  | pulse base =>
    simp only [Machine.exec, execPulse]
    split
    · exact h.perform r hi _
    · exact h.whenIdle r hi rfl
  | encode n rs en bl => exact h.answerNow r hi _
  | response a => exact h.answerNow r hi a
  | append offset bytes => exact h.append r hi offset bytes
  | flush => exact h.flush r hi
  | reqInvalid op =>
    simp only [Machine.exec, execReqInvalid]
    exact h.whenIdle r hi rfl
  | readByte a x =>
    simp only [Machine.exec, execReadByte]
    exact h.whenIdle r hi ⟨_, rfl, h.takeRead r _⟩
  | status b a =>
    simp only [Machine.exec, execStatus]
    exact h.whenIdle r hi ⟨_, rfl, h.update (.setBusy _) r⟩
  | _ => exact h.perform r hi _

/-! ## The cursor -/

/-- The states are equal, or `t` is `s` with another cursor while `s` still has the cursor `c0`. -/
def OtherCursor (c0 c : Option Nat) (s t : State) : Prop := t = s ∨ (s.cursor = c0 ∧ t = { s with cursor := c })

theorem unread_cursor (c0 c : Option Nat) : Unread (OtherCursor c0 c) where
  reads := by
    rintro s t (rfl | ⟨-, rfl⟩)
    · exact .refl _
    · exact ⟨rfl, rfl, rfl, rfl, rfl, rfl, rfl, rfl⟩
  update := by
    rintro f s t hf (rfl | ⟨hc, rfl⟩)
    · exact .inl rfl
    · cases hf with
      | setCursor pos => exact .inl rfl
      | _ => exact .inr ⟨hc, rfl⟩

end Sys2Proof.Machine
end

section
/-! Running in one step or in several (R27, D26). -/

namespace Sys2Proof.Machine

open Sys2Proof

theorem State.go_withDraws (ds x : List Draw) (code : List Action) (s : State) :
    State.go ds code (s.withDraws x) = State.go ds code s := by
  rw [State.go, State.settle_withDraws, State.run_withDraws, State.go]

/-- Answers given at once or in two parts. -/
theorem State.go_append (first more : List Draw) (code : List Action) (s : State) :
    State.go (first ++ more) code s = State.run ((State.go first code s).draws ++ more) (State.go first code s) :=
  State.run_append first more (State.settle code s)

/-- A state in which no operation is in flight is what a run of no code leaves. -/
theorem State.go_nil_of_noPosition {s : State} (hp : s.position = []) (ds : List Draw) :
    State.go ds [] s = s.withDraws ds := by
  rw [State.go_nil, show s.goTo [] = s by rw [State.goTo, ← hp]]

/-! ## What an operation begins does not depend on the answers -/

/-- From `s`, `k` begins pseudocode that is the same whatever answers stand there, or it never leads to a next state. -/
def Begins (k : State → Host.Outcome State Fault Refusal) (s : State) : Prop :=
  (∃ code u, ∀ ds, k (s.withDraws ds) = .next (State.go ds code u)) ∨ ∀ ds t, k (s.withDraws ds) ≠ .next t

variable {s : State} {k k' : State → Host.Outcome State Fault Refusal}

theorem Begins.congr (hk : Begins k' s) (h : ∀ ds, k (s.withDraws ds) = k' (s.withDraws ds)) : Begins k s := by
  simpa only [Begins, h] using hk

theorem Begins.whenIdle (hi : s.Idle) (hk : Begins k s) : Begins (fun s => whenIdle s k) s :=
  hk.congr fun ds => whenIdle_idle (s := s.withDraws ds) hi k

theorem Begins.perform (hi : s.Idle) (code : List Action) : Begins (perform code) s :=
  .inl ⟨code, s, fun ds => by
    rw [perform_eq_go (s := s.withDraws ds) hi, State.go_withDraws, State.withDraws_draws]⟩

/-- An answer that comes at once leaves nothing to run. -/
theorem Begins.next {f : State → State} (hf : ∀ ds, f (s.withDraws ds) = (f s).withDraws ds)
    (hp : (f s).position = []) : Begins (fun s => .next (f s)) s :=
  .inl ⟨[], f s, fun ds => congrArg _ ((hf ds).trans (State.go_nil_of_noPosition hp ds).symm)⟩

theorem Begins.fault (f : Fault) : Begins (fun _ => .fault f) s := .inr fun _ _ h => by cases h

theorem Begins.refused (r : Refusal) : Begins (fun _ => .refused r) s := .inr fun _ _ h => by cases h

theorem Begins.answerNow (hi : s.Idle) (a : Response) : Begins (answerNow a) s :=
  .whenIdle hi (.next (f := (·.finish a)) (fun _ => rfl) rfl)

@[simp] theorem State.message_withDraws (s : State) (ds : List Draw) : (s.withDraws ds).message = s.message := rfl

theorem Begins.appendStored (hi : s.Idle) (bytes : List Byte) : Begins (appendStored bytes) s := by
  rcases hm : s.message with f | _ | text
  · exact .congr (.fault f) fun ds => by simp only [Machine.appendStored, State.message_withDraws, hm]
  · exact .congr (.next (f := (·.finish (.ok (some (countByte bytes.length))))) (fun _ => rfl) rfl)
      fun ds => by simp only [Machine.appendStored, State.message_withDraws, hm]
  · exact .congr (.perform hi (flushCode text ++ [.answer (some (countByte bytes.length))]))
      fun ds => by simp only [Machine.appendStored, State.message_withDraws, hm]

theorem Begins.append (hi : s.Idle) (offset : Nat) (bytes : List Byte) : Begins (execAppend offset bytes) s := by
  refine .whenIdle hi ?_
  by_cases ho : offset ≠ s.lbOff
  · exact .congr (.refused (.offsetMismatch offset s.lbOff)) fun _ => if_pos ho
  by_cases hl : Config.BUF_CAP < offset + bytes.length
  · exact .congr (.next (f := fun s => (s.setLbOff 0).raiseError .messageTooLong) (fun _ => rfl) rfl)
      fun _ => (if_neg ho).trans (if_pos hl)
  rcases hm : lbStore s.lbBuf offset bytes with f | m
  · exact .congr (.fault f) fun ds => by
      simp only [State.withDraws_lbOff, State.withDraws_lbBuf, ho, hl, hm, if_false]
  · have hstored := Begins.appendStored (s := s.stored m (offset + bytes.length)) hi bytes
    exact .congr (k' := fun u => Machine.appendStored bytes (u.stored m (offset + bytes.length))) hstored fun ds => by
      simp only [State.withDraws_lbOff, State.withDraws_lbBuf, ho, hl, hm, if_false, State.stored]

theorem Begins.flush (hi : s.Idle) : Begins execFlush s := by
  refine .whenIdle hi ?_
  rcases hm : s.message with f | _ | text
  · exact .congr (.fault f) fun ds => by simp only [State.message_withDraws, hm]
  · exact .congr (.refused .flushWithoutNewline) fun ds => by simp only [State.message_withDraws, hm]
  · exact .congr (.perform hi (flushCode text ++ [.ret])) fun ds => by simp only [State.message_withDraws, hm]

theorem State.takeRead_withDraws (s : State) (v : Byte) (ds : List Draw) :
    (s.withDraws ds).takeRead v = (s.takeRead v).withDraws ds := by
  unfold State.takeRead
  rw [State.withDraws_H]
  split <;> rfl

theorem Begins.exec (hi : s.Idle) (i : Instr) : Begins (exec i) s := by
  cases i with
  | setCursor pos =>
    by_cases hp : posInRange pos = true
    · exact .congr (.perform hi (setCursorCode pos.toNat ++ [.answer none])) fun ds => by
        rw [Machine.exec, execSetCursor, if_pos hp]
    · exact .congr (.whenIdle hi (.next (f := (·.raiseError .invalidArgument)) (fun _ => rfl) rfl)) fun ds => by
        rw [Machine.exec, execSetCursor, if_neg hp]
  | pulse base =>
    by_cases hb : base.getLsbD Config.EN_BIT = true
    · exact .congr (.perform hi (pulseCode base ++ [.answer none])) fun ds => by
        rw [Machine.exec, execPulse, if_pos hb]
    · exact .congr (.whenIdle hi (.refused (.pulseEnableClear base))) fun ds => by
        rw [Machine.exec, execPulse, if_neg hb]
  | encode n rs en bl => exact .answerNow hi _
  | response a => exact .answerNow hi a
  | append offset bytes => exact .append hi offset bytes
  | flush => exact .flush hi
  | reqInvalid op => exact .whenIdle hi (.refused _)
  | readByte h x =>
    exact .whenIdle hi (.next (s.takeRead_withDraws _) ((s.takeRead_position _).trans hi.1))
  | status b a => exact .whenIdle hi (.next (f := (·.takeStatus _)) (fun _ => rfl) hi.1)
  | _ => exact .perform hi _

/-! ## The next step -/

theorem State.awaiting_position {s : State} (h : s.awaiting = true) : s.position ≠ [] := by
  intro hp
  simp [State.awaiting, hp] at h

theorem State.notAwaiting_of_noPosition {s : State} (h : s.position = []) : s.awaiting = false := by
  simp [State.awaiting, h]

/-- An operation that waits at a transport call goes on with the answers that have come (R27). -/
theorem step_awaiting {s : State} {ds : List Draw} (hr : s.resetLine = false) (ha : s.awaiting = true) (hd : ds ≠ []) :
    step (s.withDraws ds) = .next (State.run ds s) := by
  rw [step_inFlight (s := s.withDraws ds) hr (State.awaiting_position ha)]
  rcases resume_of_awaiting (s := s.withDraws ds) ha with ⟨-, h⟩ | ⟨hn, -⟩
  · rw [h, State.withDraws_draws, State.run_withDraws]
  · exact absurd hn hd

end Sys2Proof.Machine
end

section
/-! The statements of the family 10_state.md. -/

open Sys2Proof Sys2Proof.Machine

/-- Settles O54: by the cases of a step; a run keeps the invariant because each statement and each answered call does. -/
theorem stepKeepsTheInvariant : Obligations.StepKeepsTheInvariant := fun _ _ => inv_step

/-- Settles O33: the pseudocode of every other instruction has no statement that writes the register. -/
theorem registersHaveTheirWriters : Obligations.RegistersHaveTheirWriters := by
  intro i s t hi h
  have ha := exec_answers hi h
  obtain ⟨m, hout, hm⟩ := ha.sameOutside
  refine ⟨fun h1 => ?_, fun h1 h2 h3 h4 h5 => ?_, fun h1 h2 => ?_, fun h1 a => ?_, hout.requests, hout.lane,
    hout.drawCount, hout.resetLine, hout.rspReady⟩
  · exact (ha.agrees (mayWrite_phase h1)).1 rfl
  · exact (ha.agrees (mayWrite_cursor h1 h2 h3 h4 h5)).2.1 rfl
  · exact (ha.agrees (mayWrite_lbOff h1 h2)).2.2 rfl
  · rw [hout.lbBuf, hm h1]; rfl

/-- Settles O32: every update keeps two states equal or apart in the cursor only, and no operation reads the cursor. -/
theorem noOperationReadsTheCursor : Obligations.NoOperationReadsTheCursor := by
  intro i c s hi
  have h := (unread_cursor s.cursor c).exec (t := { s with cursor := c }) (.inr ⟨rfl, rfl⟩) hi i
  generalize exec i s = o at h ⊢
  cases o with
  | next t =>
    obtain ⟨t', h', rfl | ⟨hc, rfl⟩⟩ := h
    · exact .inl h'
    · exact .inr ⟨hc, h'⟩
  | fault f => exact h
  | refused q => exact h

/-- Settles O47: what an instruction begins does not depend on the answers, and a run may be given its answers in parts. -/
theorem granularityDoesNotMatter : Obligations.GranularityDoesNotMatter := by
  intro i first more s t hi hr h
  have hanswers := exec_answers (s := s.withDraws first) hi h
  have hreset : t.resetLine = false := by
    obtain ⟨m, hout, -⟩ := hanswers.sameOutside
    exact hout.resetLine.trans hr
  obtain ⟨code, u, hbegins⟩ | hstops := Begins.exec hi i
  · obtain rfl : State.go first code u = t := by
      have := (hbegins first).symm.trans h
      cases this; rfl
    have hall : exec i (s.withDraws (first ++ more)) = .next (State.run _ (State.go first code u)) :=
      (hbegins _).trans (congrArg _ (State.go_append first more code u))
    refine ⟨fun hp => ?_, fun hp => ?_⟩
    · exact hall.trans (congrArg _ (State.run_notWaiting (State.notAwaiting_of_noPosition hp) _))
    · have hw := (hanswers.waits (s := s.withDraws first) hi).resolve_left hp
      have hd : (State.go first code u).draws = [] := State.run_draws_of_waiting hw
      refine ⟨hd, fun hm => ?_⟩
      rw [hd] at hall
      exact hall.trans (step_awaiting hreset hw hm).symm
  · exact absurd h (hstops first t)

/-- Settles O50: the fields of `State.reset`. -/
theorem resetState : Obligations.ResetState := ⟨rfl, rfl, rfl, Memory.read_nil, rfl, rfl, rfl⟩

/-- Settles O53: no operation is in flight, the buffer is empty, and nothing has been written to the lines. -/
theorem resetIsGood : Obligations.ResetIsGood := inv_reset
end

section
/-! Answers in order (R52 to R54, R72): an instruction uses its answers from the front, one per transport call. -/

namespace Sys2Proof.Machine

open Sys2Proof

/-- From `s` to `t` every transport call took the next answer and made the event of that answer (R72). -/
def State.CallsAnswered (s t : State) : Prop :=
  ∃ evs used, t.trace = s.trace ++ evs ∧ s.draws = used ++ t.draws
    ∧ List.Forall₂ (fun e d => e.answeredBy d = true) (evs.filter Event.isCall) used

/-- Without an event and without an answer used there was no call. -/
theorem State.CallsAnswered.of_no_call {s t : State} (ht : t.trace = s.trace) (hd : t.draws = s.draws) :
    s.CallsAnswered t :=
  ⟨[], [], by simp [ht], hd.symm, .nil⟩

theorem State.go_callsAnswered (code : List Action) (s : State) : s.CallsAnswered (State.go s.draws code s) :=
  State.go_trace s.draws code s

/-- Every instruction but READ_BYTE, whose byte is itself the answer (log 14). -/
theorem Answers.callsAnswered {i : Instr} {s t : State} (hread : ∀ h x, i ≠ .readByte h x) (h : Answers i s t) :
    s.CallsAnswered t := by
  cases h with
  | runs => exact s.go_callsAnswered _
  | @flushes _ offset bytes _ m => exact (s.stored m (offset + bytes.length)).go_callsAnswered _
  | reads h x => exact absurd rfl (hread h x)
  | stores | overflows | outOfRange | encodes | presents | takes => exact .of_no_call rfl rfl

end Sys2Proof.Machine
end

section
/-! No fault (R57, R30): only APPEND and FLUSH reach the line buffer's memory, and both stay inside its stored part. -/

namespace Sys2Proof.Machine

open Sys2Proof

variable {s : State}

theorem whenIdle_ne_fault {k : State → Host.Outcome State Fault Refusal} {f : Fault} (hk : k s ≠ .fault f) :
    whenIdle s k ≠ .fault f := by
  by_cases hi : s.Idle
  · rwa [whenIdle_idle hi]
  · rw [whenIdle_notIdle hi]
    nofun

theorem perform_ne_fault (code : List Action) (f : Fault) : perform code s ≠ .fault f :=
  whenIdle_ne_fault nofun

theorem answerNow_ne_fault (r : Response) (f : Fault) : answerNow r s ≠ .fault f :=
  whenIdle_ne_fault nofun

/-- The newline test reads only bytes that have been stored (R202). -/
theorem BufferSound.message_ok (hs : BufferSound s.lbBuf s.lbOff) : ∃ text, s.message = .ok text := by
  obtain ⟨valid, hload⟩ := lbLoad_of_stored s.lbBuf 0 s.lbOff (by simpa using hs.offset) (by simpa using hs.stored)
  exact ⟨(newlineIndex valid).map valid.take, by simp only [State.message, hload]⟩

theorem appendStored_ne_fault (hs : BufferSound s.lbBuf s.lbOff) (bytes : List Byte) (f : Fault) :
    appendStored bytes s ≠ .fault f := by
  obtain ⟨text, hm⟩ := hs.message_ok
  cases text with
  | none => simp only [appendStored, hm]; nofun
  | some text => simpa only [appendStored, hm] using perform_ne_fault _ f

/-- The capacity check stands before the store, so the store and the test after it stay inside the buffer (R200). -/
theorem execAppend_ne_fault (hs : BufferSound s.lbBuf s.lbOff) (offset : Nat) (bytes : List Byte) (f : Fault) :
    execAppend offset bytes s ≠ .fault f := by
  refine whenIdle_ne_fault ?_
  split
  · nofun
  · next ho =>
    obtain rfl : offset = s.lbOff := not_not.mp ho
    split
    · nofun
    · next hfit =>
      have hfit := Nat.le_of_not_lt hfit
      obtain ⟨m, hm⟩ := lbStore_ok s.lbBuf s.lbOff bytes hfit
      simpa only [hm] using appendStored_ne_fault (hs.store hfit hm) bytes f

theorem execFlush_ne_fault (hs : BufferSound s.lbBuf s.lbOff) (f : Fault) : execFlush s ≠ .fault f := by
  refine whenIdle_ne_fault ?_
  obtain ⟨text, hm⟩ := hs.message_ok
  cases text with
  | none => simp only [hm]; nofun
  | some text => simpa only [hm] using perform_ne_fault _ f

theorem exec_ne_fault (hs : BufferSound s.lbBuf s.lbOff) (i : Instr) (f : Fault) : exec i s ≠ .fault f := by
  cases i with
  | append offset bytes => exact execAppend_ne_fault hs offset bytes f
  | flush => exact execFlush_ne_fault hs f
  | setCursor pos =>
    rw [exec, execSetCursor]
    split
    · exact perform_ne_fault _ f
    · exact whenIdle_ne_fault nofun
  | pulse base =>
    rw [exec, execPulse]
    split
    · exact perform_ne_fault _ f
    · exact whenIdle_ne_fault nofun
  | encode | response => exact answerNow_ne_fault _ f
  | reqInvalid op => rw [exec, execReqInvalid]; exact whenIdle_ne_fault nofun
  | readByte h x => rw [exec, execReadByte]; exact whenIdle_ne_fault nofun
  | status b a => rw [exec, execStatus]; exact whenIdle_ne_fault nofun
  | _ => exact perform_ne_fault _ f

/-- Outside an idle block a step has a next state; an idle one runs an item on the buffer as it is. -/
theorem step_ne_fault (hs : BufferSound s.lbBuf s.lbOff) (f : Fault) : step s ≠ .fault f := by
  by_cases hr : s.resetLine = true
  · rw [step_reset hr]; nofun
  have hr : s.resetLine = false := by simpa using hr
  by_cases hp : s.position = []
  · by_cases ha : s.response = none
    · rw [step_idle hr ⟨hp, ha⟩]
      split
      · nofun
      · nofun
      · next i t hf =>
        obtain ⟨rest, -, rfl⟩ := State.fetch_item hf
        exact exec_ne_fault (by exact hs) i f
    · rw [step_answered hr hp ha]; nofun
  · rw [step_inFlight hr hp]; nofun

end Sys2Proof.Machine
end

section
/-! One write on its own (R52, log 13). -/

namespace Sys2Proof.Machine

open Sys2Proof

variable {s : State}

/-- The write succeeds: its event, the lines, and nothing else. -/
theorem perform_write_ok (hi : s.Idle) {v : Byte} {rest : List Draw} (hd : s.draws = .ok v :: rest) (b : Byte) :
    perform [.write b] s = .next { s with draws := rest, trace := s.trace ++ [.write b], port := some b } := by
  rw [perform_eq_go hi, hd, State.go_write_ok, State.go_nil_of_noPosition (s := s.wrote b) hi.1]
  rfl

/-- The write fails: its event, the lines unknown, and BusError. -/
theorem perform_write_err (hi : s.Idle) {e : BusErrInfo} {rest : List Draw} (hd : s.draws = .err e :: rest) (b : Byte) :
    perform [.write b] s
      = .next { s.after [.writeErr b] rest (.error (.busError e)) with port := none } := by
  rw [perform_eq_go hi, hd, State.go_write_err]
  rfl

end Sys2Proof.Machine
end

section
/-! The statements of the family 20_memory.md. -/

open Sys2Proof Sys2Proof.Machine

/-- Settles O46: an answered call takes one answer and makes its event, and what runs between calls only sleeps. -/
theorem eachCallTakesOneAnswer : Obligations.EachCallTakesOneAnswer :=
  fun _ _ _ hi hread h => (exec_answers hi h).callsAnswered hread

/-- Settles O55: only APPEND and FLUSH access the buffer, and they stay inside the stored part, which `Inv` bounds. -/
theorem goodStatesNeverFault : Obligations.GoodStatesNeverFault := fun _ f hs => step_ne_fault hs.sound.1 f

/-- Settles O15: each of the three items performs the one write of its byte. -/
theorem transportBytesAreWritten : Obligations.TransportBytesAreWritten := by
  intro n bl en rs v e rest s hi i b hib
  have hexec : exec i s = perform [.write b] s := by
    rcases hib with ⟨rfl, rfl⟩ | ⟨rfl, rfl⟩ | ⟨rfl, rfl⟩ <;> rfl
  exact ⟨fun hd => hexec.trans (perform_write_ok hi hd b), fun hd => hexec.trans (perform_write_err hi hd b)⟩
end

section
/-! Bit fields (R80, R85, R88, R90, R96): a packed byte's fields are read back, and a byte is its fields packed. -/

namespace Sys2Proof

/-! ## Two nibbles -/

/-- The number that two fields make, the high field first. -/
theorem toNat_append_eq_add {m n : Nat} (x : BitVec m) (y : BitVec n) :
    (x ++ y).toNat = x.toNat * 2 ^ n + y.toNat := by
  rw [BitVec.toNat_append, ← Nat.shiftLeft_add_eq_or_of_lt y.isLt, Nat.shiftLeft_eq]

theorem joinNibbles_eq_append (h l : Nibble) : joinNibbles h l = h ++ l :=
  (BitVec.setWidth_append_eq_shiftLeft_setWidth_or (b := h) (b' := l) (w'' := 8)).symm.trans (BitVec.setWidth_eq _)

@[simp] theorem hiNibble_joinNibbles (h l : Nibble) : hiNibble (joinNibbles h l) = h := by
  rw [joinNibbles_eq_append]
  exact BitVec.extractLsb'_append_eq_left

@[simp] theorem loNibble_joinNibbles (h l : Nibble) : loNibble (joinNibbles h l) = l := by
  rw [joinNibbles_eq_append]
  exact BitVec.extractLsb'_append_eq_right

@[simp] theorem joinNibbles_hiNibble_loNibble (b : Byte) : joinNibbles (hiNibble b) (loNibble b) = b := by
  rw [joinNibbles_eq_append]
  exact BitVec.extractLsb'_append_extractLsb' (w := 4) (len := 4)

theorem joinNibbles_toNat (h l : Nibble) : (joinNibbles h l).toNat = 16 * h.toNat + l.toNat := by
  rw [joinNibbles_eq_append, toNat_append_eq_add]
  omega

/-! ## Frames -/

theorem packFrame_eq_joinNibbles (n : Nibble) (bl en rw rs : Bool) :
    packFrame n bl en rw rs
      = joinNibbles n (BitVec.ofBool bl ++ BitVec.ofBool en ++ BitVec.ofBool rw ++ BitVec.ofBool rs) := by
  simp only [joinNibbles, BitVec.setWidth_append_eq_shiftLeft_setWidth_or, BitVec.shiftLeft_or_distrib,
    ← BitVec.shiftLeft_add]
  simp [packFrame, bitByte, Config.DATA_LO, Config.BL_BIT, Config.EN_BIT, Config.RW_BIT, Config.RS_BIT,
    BitVec.or_assoc]

@[simp] theorem hiNibble_packFrame (n : Nibble) (bl en rw rs : Bool) : hiNibble (packFrame n bl en rw rs) = n := by
  rw [packFrame_eq_joinNibbles, hiNibble_joinNibbles]

@[simp] theorem packFrame_backlight (n : Nibble) (bl en rw rs : Bool) :
    (packFrame n bl en rw rs).getLsbD Config.BL_BIT = bl := by
  decide +revert

@[simp] theorem packFrame_enable (n : Nibble) (bl en rw rs : Bool) :
    (packFrame n bl en rw rs).getLsbD Config.EN_BIT = en := by
  decide +revert

@[simp] theorem packFrame_readWrite (n : Nibble) (bl en rw rs : Bool) :
    (packFrame n bl en rw rs).getLsbD Config.RW_BIT = rw := by
  decide +revert

@[simp] theorem packFrame_registerSelect (n : Nibble) (bl en rw rs : Bool) :
    (packFrame n bl en rw rs).getLsbD Config.RS_BIT = rs := by
  decide +revert

/-- The OR of the fields is their sum (R101). -/
theorem packFrame_toNat (n : Nibble) (bl en rw rs : Bool) :
    (packFrame n bl en rw rs).toNat
      = n.toNat * 16 + bl.toNat * 8 + en.toNat * 4 + rw.toNat * 2 + rs.toNat := by
  rw [packFrame_eq_joinNibbles, joinNibbles_toNat]
  simp only [toNat_append_eq_add, BitVec.toNat_ofBool]
  omega

theorem packFrame_fields (b : Byte) :
    packFrame (hiNibble b) (b.getLsbD Config.BL_BIT) (b.getLsbD Config.EN_BIT) (b.getLsbD Config.RW_BIT)
      (b.getLsbD Config.RS_BIT) = b := by
  decide +revert

/-! ## ENCODE's operand, the status byte and the Set-DDRAM-Address byte -/

theorem packEncodeOperand_bitSeven (n : Nibble) (rs en bl : Bool) :
    (packEncodeOperand n rs en bl).getLsbD 7 = false := by
  decide +revert

theorem packEncodeOperand_backlight (n : Nibble) (rs en bl : Bool) :
    (packEncodeOperand n rs en bl).getLsbD 6 = bl := by
  decide +revert

theorem packEncodeOperand_enable (n : Nibble) (rs en bl : Bool) :
    (packEncodeOperand n rs en bl).getLsbD 5 = en := by
  decide +revert

theorem packEncodeOperand_registerSelect (n : Nibble) (rs en bl : Bool) :
    (packEncodeOperand n rs en bl).getLsbD 4 = rs := by
  decide +revert

@[simp] theorem loNibble_packEncodeOperand (n : Nibble) (rs en bl : Bool) :
    loNibble (packEncodeOperand n rs en bl) = n := by
  decide +revert

theorem packEncodeOperand_fields {b : Byte} (h : b.getLsbD 7 = false) :
    packEncodeOperand (loNibble b) (b.getLsbD 4) (b.getLsbD 5) (b.getLsbD 6) = b := by
  decide +revert

theorem packStatus_eq_append (b : Bool) (a : BitVec 7) : packStatus b a = BitVec.ofBool b ++ a :=
  (BitVec.setWidth_append_eq_shiftLeft_setWidth_or (b := BitVec.ofBool b) (b' := a) (w'' := 8)).symm.trans
    (BitVec.setWidth_eq _)

theorem packStatus_bitSeven (b : Bool) (a : BitVec 7) : (packStatus b a).getLsbD 7 = b := by
  simp [packStatus, bitByte]

@[simp] theorem packStatus_low (b : Bool) (a : BitVec 7) : (packStatus b a).extractLsb' 0 7 = a := by
  rw [packStatus_eq_append]
  exact BitVec.extractLsb'_append_eq_right

theorem packStatus_fields (b : Byte) : packStatus (b.getLsbD 7) (b.extractLsb' 0 7) = b := by
  decide +revert

/-- A Set-DDRAM-Address byte is laid out as a status byte that says busy (R85, R88). -/
theorem packDdramCommand_eq_packStatus (a : BitVec 7) : packDdramCommand a = packStatus true a := rfl

end Sys2Proof
end

section
/-! The decoder and the encoder are inverse: each decoder reads the word of its items back (R80, R83 to R89, R96, R97), and
what it accepts is the word of the item it answers. -/

namespace Sys2Proof

/-! ## Reading a word back -/

theorem decodePulseOperand_enableSet {b : Byte} (h : b.getLsbD Config.EN_BIT = true) :
    decodePulseOperand b = .ok (.pulse b) :=
  if_pos h

theorem decodeEncodeOperand_pack (n : Nibble) (rs en bl : Bool) :
    decodeEncodeOperand (packEncodeOperand n rs en bl) = .ok (.encode n rs en bl) := by
  simp only [decodeEncodeOperand, packEncodeOperand_bitSeven, packEncodeOperand_registerSelect,
    packEncodeOperand_enable, packEncodeOperand_backlight, loNibble_packEncodeOperand]
  rfl

theorem decodeAppendOperands_encode {offset : Nat} {bytes : List Byte} (ho : offset < 256) (hl : bytes.length < 256)
    (rest : List Byte) :
    decodeAppendOperands (BitVec.ofNat 8 offset :: BitVec.ofNat 8 bytes.length :: (bytes ++ rest))
      = .ok (.append offset bytes, rest) := by
  have ho : (BitVec.ofNat 8 offset).toNat = offset := Nat.mod_eq_of_lt ho
  have hl : (BitVec.ofNat 8 bytes.length).toNat = bytes.length := Nat.mod_eq_of_lt hl
  simp [decodeAppendOperands, ho, hl]

theorem setCursor_operand {pos : Int} (h : -128 ≤ pos ∧ pos ≤ 127) : (BitVec.ofInt 8 pos).toInt = pos :=
  BitVec.toInt_ofInt_eq_self (by decide) (by simpa using h.1) (by omega)

/-- Op bytes 0x0B..0xFF name no operation (R98). -/
theorem decodeRequest_invalid {op : Byte} (h : 0x0B ≤ op.toNat) (rest : List Byte) :
    decodeRequest (op :: rest) = .ok (.reqInvalid op, rest) := by
  simp only [decodeRequest]
  split
  case h_12 => rfl
  all_goals omega

/-- A frame with RW = 0 is neither probe byte, and its fields are read back (R80, R83). -/
theorem decodeXByte_packFrame (n : Nibble) (bl en rs : Bool) :
    decodeXByte (packFrame n bl en false rs) = .ok (.frame n bl en rs) := by
  have hne : ∀ p : Byte, p.getLsbD Config.RW_BIT = true → packFrame n bl en false rs ≠ p := by
    rintro p hp rfl
    simp at hp
  simp [decodeXByte, hne Config.BUSY_PROBE_HI rfl, hne Config.BUSY_PROBE_LO rfl]

/-- The command bytes of R87 have bit 7 clear, a Set-DDRAM-Address byte has it set (R88). -/
theorem decodeLcdCommand_packDdramCommand (a : BitVec 7) :
    decodeLcdCommand (packDdramCommand a) = .ok (.lcdSetDdramAddr a) := by
  rw [packDdramCommand_eq_packStatus]
  have hne : ∀ c : Byte, c.getLsbD 7 = false → packStatus true a ≠ c := by
    rintro c hc rfl
    rw [packStatus_bitSeven] at hc
    cases hc
  simp only [decodeLcdCommand, hne Config.CMD_4BIT_HALF rfl, hne Config.CMD_FUNCTION_SET rfl,
    hne Config.CMD_DISPLAY_ON rfl, hne Config.CMD_CLEAR rfl, packStatus_bitSeven, packStatus_low, if_false, if_true]

theorem decodeResponse_encodeResponse (r : Response) : decodeResponse (encodeResponse r) = .ok (.response r, []) := by
  rcases r with (_ | v) | (e | _ | _) <;> rfl

/-- A word that is no response ends by itself, so it is read back with anything behind it. -/
theorem decodeAs_encode_append {i : Instr} (h : i.wellFormed = true) (hf : i.format ≠ .rsp) (rest : List Byte) :
    decodeAs i.format (encode i ++ rest) = .ok (i, rest) := by
  cases i with
  | setCursor pos =>
    have hpos := setCursor_operand (of_decide_eq_true h)
    simp [decodeAs, Instr.format, encode, decodeRequest, oneOperand, hpos]
  | pulse base => simp [decodeAs, Instr.format, encode, decodeRequest, oneOperand, decodePulseOperand_enableSet h]
  | encode n rs en bl => simp [decodeAs, Instr.format, encode, decodeRequest, oneOperand, decodeEncodeOperand_pack]
  | append offset bytes =>
    obtain ⟨ho, hl⟩ := of_decide_eq_true h
    exact decodeAppendOperands_encode ho hl rest
  | reqInvalid op => exact decodeRequest_invalid (of_decide_eq_true h) rest
  | frame n bl en rs => simp [decodeAs, Instr.format, encode, oneByte, decodeXByte_packFrame]
  | readByte a x => simp [decodeAs, Instr.format, encode, oneByte]
  | status b a =>
    simp only [decodeAs, Instr.format, encode, oneByte, List.cons_append, List.nil_append, packStatus_bitSeven,
      packStatus_low]
  | lcdSetDdramAddr a => simp [decodeAs, Instr.format, encode, oneByte, decodeLcdCommand_packDdramCommand]
  | response r => exact absurd rfl hf
  | _ => rfl

/-! ## Accepted bytes -/

/-- `word` is the word of the item `i` of format `f`. -/
structure Instr.HasWord (i : Instr) (f : Format) (word : List Byte) : Prop where
  wellFormed : i.wellFormed = true
  format : i.format = f
  word : word = Sys2Proof.encode i

/-- A format whose items are one byte each, where its decoder answers items with that word. -/
theorem oneByte_accepts {k : Byte → Except DecodeError Instr} {f : Format}
    (hk : ∀ b i, k b = .ok i → i.HasWord f [b]) {bytes rest : List Byte} {i : Instr}
    (h : oneByte k bytes = .ok (i, rest)) : ∃ word, i.HasWord f word ∧ bytes = word ++ rest := by
  unfold oneByte at h
  split at h
  · cases h
  · next b tail =>
    split at h
    · next hb => cases h; exact ⟨[b], hk b _ hb, rfl⟩
    · cases h

/-- The byte's fields are the item's. -/
theorem plainByte_accepts {c : Byte → Instr} {f : Format} (hc : ∀ b, (c b).HasWord f [b]) {bytes rest : List Byte}
    {i : Instr} (h : oneByte (fun b => .ok (c b)) bytes = .ok (i, rest)) :
    ∃ word, i.HasWord f word ∧ bytes = word ++ rest :=
  oneByte_accepts (fun b _ hb => Except.ok.inj hb ▸ hc b) h

/-- A request with the op byte `op` and one operand byte (R96). -/
theorem oneOperand_accepts {k : Byte → Except DecodeError Instr} {op : Byte}
    (hk : ∀ p i, k p = .ok i → i.HasWord .req [op, p]) {bytes rest : List Byte} {i : Instr}
    (h : oneOperand k bytes = .ok (i, rest)) : ∃ word, i.HasWord .req word ∧ op :: bytes = word ++ rest := by
  unfold oneOperand at h
  split at h
  · cases h
  · next p tail =>
    split at h
    · next hp => cases h; exact ⟨[op, p], hk p _ hp, rfl⟩
    · cases h

/-- The operand byte is the instruction's operand. -/
theorem plainOperand_accepts {c : Byte → Instr} {op : Byte} (hc : ∀ p, (c p).HasWord .req [op, p])
    {bytes rest : List Byte} {i : Instr} (h : oneOperand (fun p => .ok (c p)) bytes = .ok (i, rest)) :
    ∃ word, i.HasWord .req word ∧ op :: bytes = word ++ rest :=
  oneOperand_accepts (fun p _ hp => Except.ok.inj hp ▸ hc p) h

theorem setCursor_hasWord (p : Byte) : (Instr.setCursor p.toInt).HasWord .req [0x02#8, p] := by
  have hlt : p.toInt < 128 := BitVec.toInt_lt
  refine ⟨decide_eq_true ⟨BitVec.le_toInt p, by omega⟩, rfl, ?_⟩
  rw [encode, BitVec.ofInt_toInt]

theorem decodePulseOperand_accepts (p : Byte) (i : Instr) (h : decodePulseOperand p = .ok i) :
    i.HasWord .req [0x08#8, p] := by
  unfold decodePulseOperand at h
  split at h
  · next hp => cases h; exact ⟨hp, rfl, rfl⟩
  · cases h

theorem decodeEncodeOperand_accepts (p : Byte) (i : Instr) (h : decodeEncodeOperand p = .ok i) :
    i.HasWord .req [0x09#8, p] := by
  unfold decodeEncodeOperand at h
  split at h
  · cases h
  · next hp =>
    cases h
    refine ⟨rfl, rfl, ?_⟩
    rw [encode, packEncodeOperand_fields (by simpa using hp)]

theorem decodeAppendOperands_accepts {bytes rest : List Byte} {i : Instr}
    (h : decodeAppendOperands bytes = .ok (i, rest)) : ∃ word, i.HasWord .req word ∧ 0x0A#8 :: bytes = word ++ rest := by
  unfold decodeAppendOperands at h
  split at h
  · next o k tail =>
    split at h
    · cases h
    · next hk =>
      cases h
      have hl : (tail.take k.toNat).length = k.toNat := List.length_take_of_le (by omega)
      refine ⟨_, ⟨?_, rfl, rfl⟩, ?_⟩
      · simp only [Instr.wellFormed, hl]
        exact decide_eq_true ⟨o.isLt, k.isLt⟩
      · simp [encode, hl]
  · cases h

theorem decodeRequest_accepts {bytes rest : List Byte} {i : Instr} (h : decodeRequest bytes = .ok (i, rest)) :
    ∃ word, i.HasWord .req word ∧ bytes = word ++ rest := by
  cases bytes with
  | nil => cases h
  | cons op tail =>
    by_cases hop : 0x0B ≤ op.toNat
    · rw [decodeRequest_invalid hop] at h
      cases h
      exact ⟨_, ⟨decide_eq_true hop, rfl, rfl⟩, rfl⟩
    obtain ⟨n, hn, rfl⟩ : ∃ n, n < 0x0B ∧ op = BitVec.ofNat 8 n := ⟨op.toNat, by omega, by simp⟩
    interval_cases n
    · cases h; exact ⟨_, ⟨rfl, rfl, rfl⟩, rfl⟩
    · cases h; exact ⟨_, ⟨rfl, rfl, rfl⟩, rfl⟩
    · exact plainOperand_accepts (c := fun p => .setCursor p.toInt) setCursor_hasWord h
    · exact plainOperand_accepts (c := .printChar) (fun _ => ⟨rfl, rfl, rfl⟩) h
    · exact plainOperand_accepts (c := .sendCommand) (fun _ => ⟨rfl, rfl, rfl⟩) h
    · exact plainOperand_accepts (c := .sendData) (fun _ => ⟨rfl, rfl, rfl⟩) h
    · exact plainOperand_accepts (c := .sendHalfCommand) (fun _ => ⟨rfl, rfl, rfl⟩) h
    · cases h; exact ⟨_, ⟨rfl, rfl, rfl⟩, rfl⟩
    · exact oneOperand_accepts decodePulseOperand_accepts h
    · exact oneOperand_accepts decodeEncodeOperand_accepts h
    · exact decodeAppendOperands_accepts h

theorem decodeXByte_accepts (b : Byte) (i : Instr) (h : decodeXByte b = .ok i) : i.HasWord .xbyte [b] := by
  unfold decodeXByte at h
  split at h
  · next hb => cases h; exact ⟨rfl, rfl, by rw [hb]; rfl⟩
  split at h
  · next hb => cases h; exact ⟨rfl, rfl, by rw [hb]; rfl⟩
  split at h
  · cases h
  · next hrw =>
    cases h
    refine ⟨rfl, rfl, ?_⟩
    have hb := packFrame_fields b
    rw [eq_false_of_ne_true hrw] at hb
    rw [encode, hb]

theorem decodeLcdCommand_accepts (b : Byte) (i : Instr) (h : decodeLcdCommand b = .ok i) : i.HasWord .lcdCmd [b] := by
  unfold decodeLcdCommand at h
  split at h
  · next hb => cases h; exact ⟨rfl, rfl, by rw [hb]; rfl⟩
  split at h
  · next hb => cases h; exact ⟨rfl, rfl, by rw [hb]; rfl⟩
  split at h
  · next hb => cases h; exact ⟨rfl, rfl, by rw [hb]; rfl⟩
  split at h
  · next hb => cases h; exact ⟨rfl, rfl, by rw [hb]; rfl⟩
  split at h
  · next hb =>
    cases h
    refine ⟨rfl, rfl, ?_⟩
    rw [encode, packDdramCommand_eq_packStatus, ← hb, packStatus_fields]
  · cases h

theorem decodeResponse_unused {st : Byte} (h : 4 ≤ st.toNat) (rest : List Byte) :
    decodeResponse (st :: rest) = .error .responseStatusUnused := by
  simp only [decodeResponse]
  split
  case h_9 => rfl
  all_goals omega

theorem decodeResponse_accepts {bytes rest : List Byte} {i : Instr} (h : decodeResponse bytes = .ok (i, rest)) :
    ∃ word, i.HasWord .rsp word ∧ bytes = word ++ rest := by
  cases bytes with
  | nil => cases h
  | cons st tail =>
    by_cases hst : 4 ≤ st.toNat
    · rw [decodeResponse_unused hst] at h
      cases h
    obtain ⟨n, hn, rfl⟩ : ∃ n, n < 4 ∧ st = BitVec.ofNat 8 n := ⟨st.toNat, by omega, by simp⟩
    interval_cases n
    · match tail, h with
      | [], h => cases h; exact ⟨_, ⟨rfl, rfl, rfl⟩, rfl⟩
      | [v], h => cases h; exact ⟨_, ⟨rfl, rfl, rfl⟩, rfl⟩
    · cases h; exact ⟨_, ⟨rfl, rfl, rfl⟩, (List.append_nil _).symm⟩
    · match tail, h with
      | [], h => cases h; exact ⟨_, ⟨rfl, rfl, rfl⟩, rfl⟩
    · match tail, h with
      | [], h => cases h; exact ⟨_, ⟨rfl, rfl, rfl⟩, rfl⟩

theorem decodeAs_accepts {f : Format} {bytes rest : List Byte} {i : Instr} (h : decodeAs f bytes = .ok (i, rest)) :
    ∃ word, i.HasWord f word ∧ bytes = word ++ rest := by
  cases f with
  | req => exact decodeRequest_accepts h
  | internal => cases h; exact ⟨[], ⟨rfl, rfl, rfl⟩, rfl⟩
  | xbyte => exact oneByte_accepts decodeXByte_accepts h
  | xbyteIn =>
    refine plainByte_accepts (c := fun b => .readByte (hiNibble b) (loNibble b)) (fun b => ⟨rfl, rfl, ?_⟩) h
    rw [encode, joinNibbles_hiNibble_loNibble]
  | lcdStatus =>
    refine plainByte_accepts (c := fun b => .status (b.getLsbD 7) (b.extractLsb' 0 7)) (fun b => ⟨rfl, rfl, ?_⟩) h
    rw [encode, packStatus_fields]
  | lcdCmd => exact oneByte_accepts decodeLcdCommand_accepts h
  | lcdData => exact plainByte_accepts (c := .lcdData) (fun _ => ⟨rfl, rfl, rfl⟩) h
  | rsp => exact decodeResponse_accepts h

end Sys2Proof
end

section
/-! Operands (R59, R85, R88, R92, R102): the enable mask, the addresses of the positions and the byte of each. -/

namespace Sys2Proof.Machine

open Sys2Proof

/-! ## The enable bit (R102) -/

theorem enableLow_getLsbD (x : Byte) (i : Nat) :
    (enableLow x).getLsbD i = if i = 2 then !x.getLsbD 2 else x.getLsbD i := by
  have hmask : Config.EN_MASK = BitVec.twoPow 8 2 := rfl
  rw [enableLow, BitVec.getLsbD_xor, hmask, BitVec.getLsbD_twoPow]
  split
  · next h => subst h; simp
  · next h => simp [Ne.symm h]

/-! ## Positions (R59, R92) -/

theorem ddramAddr_line1 {p : Nat} (h : p < 16) : ddramAddr p = p :=
  (if_neg (show ¬ Config.COLUMNS ≤ p from Nat.not_le.mpr h)).trans (Nat.zero_add p)

theorem ddramAddr_line2 {p : Nat} (h : 16 ≤ p) : ddramAddr p = p - 16 + 0x40 :=
  if_pos h

theorem ddramAddr_le {p : Nat} (h : p < 32) : ddramAddr p ≤ 0x4F := by
  rcases lt_or_ge p 16 with h1 | h2
  · rw [ddramAddr_line1 h1]; omega
  · rw [ddramAddr_line2 h2]; omega

/-- The two lines' addresses do not meet. -/
theorem ddramAddr_injOn {p q : Nat} (hp : p < 32) (hq : q < 32) (h : ddramAddr p = ddramAddr q) : p = q := by
  rcases lt_or_ge p 16 with hp1 | hp2
  · rw [ddramAddr_line1 hp1] at h
    rcases lt_or_ge q 16 with hq1 | hq2
    · rwa [ddramAddr_line1 hq1] at h
    · rw [ddramAddr_line2 hq2] at h; omega
  · rw [ddramAddr_line2 hp2] at h
    rcases lt_or_ge q 16 with hq1 | hq2
    · rw [ddramAddr_line1 hq1] at h; omega
    · rw [ddramAddr_line2 hq2] at h; omega

/-- The address stands below the command's bit 7 (R88). -/
theorem setDdram_toNat {a : Nat} (h : a < 128) : (0x80#8 ||| BitVec.ofNat 8 a).toNat = 0x80 + a := by
  have ha : (BitVec.ofNat 8 a).toNat = a := Nat.mod_eq_of_lt (by omega)
  rw [BitVec.toNat_or, ha]
  exact (Nat.two_pow_add_eq_or_of_lt (i := 7) h 1).symm

end Sys2Proof.Machine
end

section
/-! Instructions of an idle block that have a case of their own: answered at once, taken, refused, or begun after a check. -/

namespace Sys2Proof.Machine

open Sys2Proof

variable {s : State}

theorem exec_encode (hi : s.Idle) (n : Nibble) (rs en bl : Bool) :
    exec (.encode n rs en bl) s = .next (s.finish (.ok (some (encodeFrame n rs en bl)))) :=
  whenIdle_idle hi fun s => .next (s.finish (.ok (some (encodeFrame n rs en bl))))

theorem exec_response (hi : s.Idle) (r : Response) : exec (.response r) s = .next (s.finish r) :=
  whenIdle_idle hi fun s => .next (s.finish r)

theorem exec_readByte (hi : s.Idle) (h x : Nibble) :
    exec (.readByte h x) s = .next (s.takeRead (joinNibbles h x)) :=
  whenIdle_idle hi fun s => .next (s.takeRead (joinNibbles h x))

theorem exec_status (hi : s.Idle) (b : Bool) (a : BitVec 7) :
    exec (.status b a) s = .next (s.takeStatus (packStatus b a)) :=
  whenIdle_idle hi fun s => .next (s.takeStatus (packStatus b a))

theorem exec_reqInvalid (hi : s.Idle) (op : Byte) : exec (.reqInvalid op) s = .refused (.noSuchOperation op) :=
  whenIdle_idle hi fun _ => .refused (.noSuchOperation op)

/-- PULSE with its enable bit clear (R123 (c)). -/
theorem exec_pulse_enableClear (hi : s.Idle) {base : Byte} (h : base.getLsbD Config.EN_BIT = false) :
    exec (.pulse base) s = .refused (.pulseEnableClear base) := by
  rw [exec, execPulse, if_neg (by simp [h]), whenIdle_idle hi]

/-- PULSE with its enable bit set (R122). -/
theorem exec_pulse_enableSet {base : Byte} (h : base.getLsbD Config.EN_BIT = true) :
    exec (.pulse base) s = perform (pulseCode base ++ [.answer none]) s :=
  if_pos h

theorem exec_setCursor_inRange {pos : Int} (h0 : 0 ≤ pos) (h31 : pos ≤ 31) :
    exec (.setCursor pos) s = perform (setCursorCode pos.toNat ++ [.answer none]) s :=
  if_pos (decide_eq_true ⟨h0, h31⟩)

/-- The first read: H holds no value yet (R84). -/
theorem State.takeRead_first {s : State} (h : s.H = none) (v : Byte) : s.takeRead v = (s.emit (.read v)).setH v := by
  simp only [State.takeRead, h]

/-- The second read: H holds the first nibble (R84). -/
theorem State.takeRead_second {s : State} (h : s.H ≠ none) (v : Byte) : s.takeRead v = (s.emit (.read v)).setL v := by
  obtain ⟨n, hn⟩ := Option.ne_none_iff_exists'.mp h
  simp only [State.takeRead, hn]

end Sys2Proof.Machine
end

section
/-! The request port (R75, R98): what the bytes there decode to says what the step of an idle block does. -/

namespace Sys2Proof.Machine

open Sys2Proof

variable {s : State}

theorem State.fetch_ok {i : Instr} {rest : List Byte} (hne : s.lane = .req → s.requests ≠ [])
    (hd : decodeAs s.lane s.requests = .ok (i, rest)) :
    s.fetch = .item i { s with requests := rest, lane := .req } := by
  unfold State.fetch
  split
  · next hl hr => exact absurd hr (hne hl)
  · simp only [hd]

theorem State.fetch_error {e : DecodeError} (hne : s.lane = .req → s.requests ≠ [])
    (hd : decodeAs s.lane s.requests = .error e) : s.fetch = .bad e := by
  unfold State.fetch
  split
  · next hl hr => exact absurd hr (hne hl)
  · simp only [hd]

/-- Bytes that decode to an item run as that item, with its bytes taken (R75). -/
theorem step_decoded (hr : s.resetLine = false) (hi : s.Idle) {i : Instr} {rest : List Byte}
    (hne : s.lane = .req → s.requests ≠ []) (hd : decodeAs s.lane s.requests = .ok (i, rest)) :
    step s = exec i { s with requests := rest, lane := .req } := by
  rw [step_idle hr hi, State.fetch_ok hne hd]

/-- Bytes that are no item are refused by the decoder's name for them (R98). -/
theorem step_undecodable (hr : s.resetLine = false) (hi : s.Idle) {e : DecodeError}
    (hne : s.lane = .req → s.requests ≠ []) (hd : decodeAs s.lane s.requests = .error e) :
    step s = .refused (.undecodable e) := by
  rw [step_idle hr hi, State.fetch_error hne hd]

theorem decodeRequest_encodeBitSeven {p : Byte} (h : p.getLsbD 7 = true) (rest : List Byte) :
    decodeRequest (0x09#8 :: p :: rest) = .error .encodeBitSevenSet := by
  show oneOperand decodeEncodeOperand (p :: rest) = _
  simp only [oneOperand, decodeEncodeOperand, h, if_true]

theorem decodeRequest_pulseEnableClear {p : Byte} (h : p.getLsbD Config.EN_BIT = false) (rest : List Byte) :
    decodeRequest (0x08#8 :: p :: rest) = .error .pulseEnableClear := by
  show oneOperand decodePulseOperand (p :: rest) = _
  simp only [oneOperand, decodePulseOperand, h, Bool.false_eq_true, if_false]

end Sys2Proof.Machine
end

section
/-! Operations whose calls all succeed (R94, R282): an operation is a piece of pseudocode and one closing statement, and its
events are those of the piece. -/

namespace Sys2Proof.Machine

open Sys2Proof

/-! ## One piece and a closing statement -/

variable {s : State} {code : List Action} {D rest : List Draw} {evs : List Event} {w : Writes}

/-- A piece that writes no register, done on the block's own (R203 and log 15). -/
theorem perform_ret (hi : s.Idle) (hp : Passes code D evs) (hd : s.draws = D ++ rest) :
    perform (code ++ [.ret]) s = .next (s.afterItem evs rest) := by
  obtain ⟨u, hu, hidle⟩ := hp.2 rest [.ret] s
  rw [perform_eq_go hi, hd, hu, State.go_ret, State.idle_eq_afterItem hidle]

/-- The statement ends an operation without an event. -/
def Action.Closes (a : Action) : Prop := ∀ ds u, (State.go ds [a] u).trace = u.trace

theorem Action.closes_ret : Action.Closes .ret := by
  intro ds u
  rw [State.go_ret]
  rfl

theorem Action.closes_answer (v : Option Byte) : Action.Closes (.answer v) := by
  intro ds u
  rw [State.go_answer]
  rfl

theorem Action.closes_answerBusy : Action.Closes .answerBusy := by
  intro ds u
  rcases hb : u.busy with _ | b
  · simp only [State.go, State.settle, hb]
    rw [State.run_notWaiting rfl]
    rfl
  · rw [State.go_answerBusy hb]
    rfl

/-! ## Sleeps -/

/-- `evs` holds `n` sleeps of 10 ms and no other (R153). -/
def Sleeps (evs : List Event) (n : Nat) : Prop :=
  evs.filter (fun e => !e.isCall) = List.replicate n (.sleep 10)

theorem Sleeps.append {evs more : List Event} {m n : Nat} (h : Sleeps evs m) (g : Sleeps more n) :
    Sleeps (evs ++ more) (m + n) := by
  rw [Sleeps, List.filter_append, h, g, List.replicate_append_replicate]

/-- Each of several pieces without a sleep. -/
theorem Sleeps.flatMap {text : List Byte} {f : Byte → List Event} (h : ∀ b, Sleeps (f b) 0) :
    Sleeps (text.flatMap f) 0 := by
  induction text with
  | nil => rfl
  | cons b text ih => exact (h b).append ih

theorem Sleeps.dataEvents (b : Byte) : Sleeps (dataEvents b) 0 := rfl

/-- Every busy answer is followed by one sleep (R153). -/
theorem Sleeps.busyEvents (qs : List StatusRead) : Sleeps (busyEvents qs) qs.length := by
  induction qs with
  | nil => rfl
  | cons q qs ih =>
    have hq : Sleeps (q.events ++ [.sleep 10]) 1 := rfl
    rw [List.length_cons, Nat.add_comm]
    exact hq.append ih

theorem Sleeps.command (c : CommandRun) (cmd : Byte) : Sleeps (c.events cmd) c.busy.length := by
  have hlast : Sleeps c.last.events 0 := rfl
  have hframes : Sleeps (commandFrames cmd) 0 := rfl
  exact ((Sleeps.busyEvents c.busy).append hlast).append hframes

theorem Sleeps.init (r : InitRun) :
    Sleeps r.events
      (r.functionSet.busy.length + r.displayOn.busy.length + r.clear.busy.length + r.home.busy.length) := by
  have h0 : Sleeps [.write 0x2C#8, .write 0x28#8] 0 := rfl
  have h := (((h0.append (Sleeps.command r.functionSet 0x28#8)).append (Sleeps.command r.displayOn 0x0F#8)).append
    (Sleeps.command r.clear 0x01#8)).append (Sleeps.command r.home 0x80#8)
  rwa [Nat.zero_add] at h

theorem Sleeps.flush (f : FlushRun) (text : List Byte) :
    Sleeps (f.events text)
      (f.clear.busy.length + f.home.busy.length + (if 16 < text.length then f.wrap.busy.length else 0)) := by
  have hwrap : Sleeps (if 16 < text.length then f.wrap.events 0xC0#8 else [])
      (if 16 < text.length then f.wrap.busy.length else 0) := by
    split
    · exact Sleeps.command f.wrap 0xC0#8
    · rfl
  exact ((((Sleeps.command f.clear 0x01#8).append (Sleeps.command f.home 0x80#8)).append
    (Sleeps.flatMap Sleeps.dataEvents)).append hwrap).append (Sleeps.flatMap Sleeps.dataEvents)

/-! ## Calls -/

theorem busyDraws_length (qs : List StatusRead) : (busyDraws qs).length = 5 * qs.length := by
  induction qs with
  | nil => rfl
  | cons q qs ih =>
    rw [show busyDraws (q :: qs) = q.draws ++ busyDraws qs from rfl, List.length_append, ih, List.length_cons]
    simp only [StatusRead.draws, List.length_cons, List.length_nil]
    omega

theorem CommandRun.draws_length (c : CommandRun) : c.draws.length = 9 + 5 * c.busy.length := by
  simp only [CommandRun.draws, StatusRead.draws, List.length_append, busyDraws_length, List.length_cons, List.length_nil]
  omega

theorem InitRun.draws_length (r : InitRun) :
    r.draws.length = 38 + 5 * (r.functionSet.busy.length + r.displayOn.busy.length + r.clear.busy.length
      + r.home.busy.length) := by
  simp only [InitRun.draws, List.length_append, CommandRun.draws_length, List.length_cons, List.length_nil]
  omega

theorem FlushRun.draws_length (f : FlushRun) {k : Nat} (hf : f.fits k) :
    (f.draws k).length = (if k ≤ 16 then 18 else 27) + 4 * k
      + 5 * (f.clear.busy.length + f.home.busy.length + (if 16 < k then f.wrap.busy.length else 0)) := by
  obtain ⟨-, -, -, h1, h2⟩ := hf
  by_cases hk : k ≤ 16
  · simp only [FlushRun.draws, List.length_append, List.length_map, CommandRun.draws_length, h1, h2, hk,
      Nat.not_lt.mpr hk, if_true, if_false, List.length_nil]
    omega
  · simp only [FlushRun.draws, List.length_append, List.length_map, CommandRun.draws_length, h1, h2, hk,
      Nat.not_le.mp hk, if_true, if_false]
    omega

/-- An operation without a failing call makes the calls of its piece, one per answer, and the sleeps among its events. -/
theorem PassesWith.callsMade (hi : s.Idle) (hp : PassesWith code D evs w) (hd : s.draws = D ++ rest) {a : Action}
    (ha : a.Closes) {calls sleeps : Nat} (hc : D.length = calls) (hs : Sleeps evs sleeps) :
    ∃ t, perform (code ++ [a]) s = .next t ∧ CallsMade s t calls sleeps := by
  obtain ⟨u, hu, hidle⟩ := hp.2 rest [a] s
  refine ⟨_, perform_eq_go hi _, evs, ?_, hp.1.trans hc, hs⟩
  rw [hd, hu, ha]
  exact congrArg State.trace hidle

/-- A command with its poll. -/
theorem PassesWith.commandMade {c : CommandRun} {cmd : Byte} (hi : s.Idle)
    (hp : PassesWith code c.draws (c.events cmd) w) (hd : s.draws = c.draws ++ rest) :
    ∃ t, perform (code ++ [.answer none]) s = .next t
      ∧ CallsMade s t (9 + 5 * c.busy.length) c.busy.length :=
  hp.callsMade hi hd (Action.closes_answer none) c.draws_length (Sleeps.command c cmd)

/-! ## READ_BUSY, PULSE and FLUSH begun -/

theorem Passes.readBusy (q : StatusRead) : Passes readBusyCode q.draws q.events :=
  ⟨rfl, fun ds k s => ⟨_, State.go_readBusy q ds k s, rfl⟩⟩

theorem Passes.pulse (base v x : Byte) :
    Passes (pulseCode base) [.ok v, .ok x] [.write base, .write (enableLow base)] :=
  (Passes.write base v).append (Passes.write (enableLow base) x)

/-- The message of a buffer whose valid part is a text, a NEWLINE and more (R202, R203). -/
theorem State.message_of_valid {valid text tail : List Byte} (hcap : s.lbOff ≤ Config.BUF_CAP) (hv : s.validIs valid)
    (ht : valid = text ++ Config.NEWLINE :: tail) (hn : Config.NEWLINE ∉ text) : s.message = .ok (some text) := by
  obtain ⟨hl, hread⟩ := hv
  have hload : lbLoad s.lbBuf 0 valid.length = .ok valid :=
    lbLoad_ok s.lbBuf 0 valid (by omega) fun j b hj => by rw [Nat.zero_add]; exact hread j b hj
  rw [hl] at hload
  simp only [State.message, hload, ht, newlineIndex_of_text hn, Option.map_some, List.take_left]

theorem execFlush_of_message (hi : s.Idle) {text : List Byte} (hm : s.message = .ok (some text)) :
    execFlush s = perform (flushCode text ++ [.ret]) s := by
  simp only [execFlush, whenIdle_idle hi, hm]

end Sys2Proof.Machine
end

section
/-! Legal frames (R99): every byte that an operation other than a direct PULSE or FRAME writes is a sequenced one. -/

namespace Sys2Proof.Machine

open Sys2Proof

/-- A statement that writes, writes a sequenced byte. -/
def Action.sequenced : Action → Bool
  | .write v => sequencedByte v
  | .readHi | .readLo | .status | .testBusy | .setPhase _ | .setCursor _ | .emptyBuffer | .answer _ | .answerBusy
  | .ret => true

theorem ordinary_sequenced : Ordinary Action.sequenced where
  frame n rs := by
    show sequencedByte (nibbleFrame n rs) = true
    decide +revert
  frameLow n rs := by
    show sequencedByte (enableLow (nibbleFrame n rs)) = true
    decide +revert
  hi := rfl
  lo := rfl
  readHi := rfl
  readLo := rfl
  status := rfl
  testBusy := rfl
  cursor _ _ := rfl
  empty := rfl
  answer _ := rfl
  answerBusy := rfl
  ret := rfl

/-- The byte an event hands to the transport, if any, is a sequenced one. -/
def Event.Legal (e : Event) : Prop := ∀ v, e.written = some v → sequencedByte v = true

theorem Event.Legal.of_noWrite {e : Event} (h : e.written = none) : e.Legal := by
  intro v hv
  rw [h] at hv
  cases hv

/-- From `s0` to `s` the trace grew by legal events. -/
def State.LegalSince (s0 s : State) : Prop := ∃ evs, s.trace = s0.trace ++ evs ∧ ∀ e ∈ evs, e.Legal

theorem State.LegalSince.of_trace {s0 s : State} (h : s.trace = s0.trace) : s0.LegalSince s :=
  ⟨[], by simp [h], by simp⟩

theorem State.LegalSince.emit {s0 s : State} (h : s0.LegalSince s) {e : Event} (he : e.Legal) :
    s0.LegalSince (s.emit e) := by
  obtain ⟨evs, ht, hevs⟩ := h
  refine ⟨evs ++ [e], by rw [State.emit_trace, ht, List.append_assoc], fun x hx => ?_⟩
  rcases List.mem_append.mp hx with hx | hx
  · exact hevs x hx
  · exact List.mem_singleton.mp hx ▸ he

theorem legalSince_respected (s0 : State) : Respects Action.sequenced s0.LegalSince where
  goTo _ h := h
  withDraws _ h := h
  setBusy _ h := h
  sleep h := h.emit (.of_noWrite rfl)
  setPhase _ h := h
  setCursor _ h := h
  emptyBuffer _ h := h
  answer _ h := h
  ret h := h
  write {s v} hv h := h.emit (e := .write v) (by rintro _ ⟨⟩; exact hv)
  read _ h := h.emit (.of_noWrite rfl)
  setH _ h := h
  setL _ h := h
  writeErr {s v} _ hv h := h.emit (e := .writeErr v) (by rintro _ ⟨⟩; exact hv)
  readErr _ h := h.emit (.of_noWrite rfl)

/-- Pseudocode without a direct PULSE or FRAME. -/
theorem Program.sequenced {i : Instr} {code : List Action} (hc : Program i code) (hpulse : ∀ b, i ≠ .pulse b)
    (hframe : ∀ n bl en rs, i ≠ .frame n bl en rs) : code.all Action.sequenced = true :=
  ordinary_sequenced.program hc (fun _ _ => rfl) (fun b hb => absurd hb (hpulse b))
    (fun n bl en rs hf => absurd hf (hframe n bl en rs))

theorem Program.legalSince {i : Instr} {code : List Action} (hc : Program i code) (hpulse : ∀ b, i ≠ .pulse b)
    (hframe : ∀ n bl en rs, i ≠ .frame n bl en rs) (ds : List Draw) {s0 s : State} (h : s.trace = s0.trace) :
    s0.LegalSince (State.go ds code s) :=
  (legalSince_respected s0).go ordinary_sequenced ds (hc.sequenced hpulse hframe) (.of_trace h)

theorem Answers.legalSince {i : Instr} {s t : State} (h : Answers i s t) (hpulse : ∀ b, i ≠ .pulse b)
    (hframe : ∀ n bl en rs, i ≠ .frame n bl en rs) : s.LegalSince t := by
  cases h with
  | runs hc => exact hc.legalSince hpulse hframe _ rfl
  | @flushes _ offset bytes text => exact (Program.append offset bytes text).legalSince hpulse hframe _ rfl
  | stores | overflows | outOfRange | encodes | presents | takes => exact .of_trace rfl
  | reads a x =>
    have hs : s.LegalSince s := .of_trace rfl
    have hread : s.LegalSince (s.emit (.read (joinNibbles a x))) := hs.emit (.of_noWrite rfl)
    rcases s.takeRead_cases (joinNibbles a x) with e | e <;> rw [e] <;> exact hread

/-- Whatever the transport answers, PULSE hands it its base, then the base with bit 2 flipped, and no more (R99, R122). -/
theorem State.go_pulse_writes (base : Byte) (ds : List Draw) (s : State) :
    ∃ evs, (State.go ds (pulseCode base ++ [.answer none]) s).trace = s.trace ++ evs
      ∧ evs.filterMap Event.written <+: [base, enableLow base] := by
  rw [pulseCode, List.cons_append, List.cons_append, List.nil_append]
  match ds with
  | [] => exact ⟨[], by rw [State.go_noAnswer rfl]; simp, List.nil_prefix⟩
  | .err e :: ds => exact ⟨[.writeErr base], by rw [State.go_write_fail]; rfl, by simp [Event.written]⟩
  | [.ok _] =>
    exact ⟨[.write base], by rw [State.go_write_ok, State.go_noAnswer rfl]; rfl, by simp [Event.written]⟩
  | .ok _ :: .err e :: ds =>
    refine ⟨[.write base, .writeErr (enableLow base)], ?_, by simp [Event.written]⟩
    rw [State.go_write_ok, State.go_write_fail, State.wrote_eq_did, State.failed_did]
    rfl
  | .ok _ :: .ok _ :: ds =>
    refine ⟨[.write base, .write (enableLow base)], ?_, by simp [Event.written]⟩
    rw [State.go_write_ok, State.go_write_ok, State.go_answer, State.wrote_eq_did, State.wrote_eq_did, State.did_did]
    rfl

end Sys2Proof.Machine
end

section
/-! The statements of the family 30_encoding.md. -/

open Sys2Proof Sys2Proof.Machine

/-- Settles O1: a response is read back as a whole, and every other word is read back with anything behind it. -/
theorem decodeOfEncodeIsIdentity : Obligations.DecodeOfEncodeIsIdentity := by
  intro i h
  refine ⟨?_, fun hreq rest => ?_⟩
  · by_cases hf : i.format = .rsp
    · cases i with
      | response r => exact decodeResponse_encodeResponse r
      | _ => cases hf
    · simpa using decodeAs_encode_append h hf []
  · simpa only [hreq] using decodeAs_encode_append h (by rw [hreq]; nofun) rest

/-- Settles O2: each format's decoder answers an item whose word is what it took. -/
theorem acceptedBytesAreTheEncoding : Obligations.AcceptedBytesAreTheEncoding := by
  intro f bytes i rest h
  obtain ⟨_, ⟨hwf, hformat, rfl⟩, hbytes⟩ := decodeAs_accepts h
  exact ⟨hwf, hformat, hbytes⟩

/-- Settles O24: each row is the sending of its byte and a return, and a piece that passes leaves its events only. -/
theorem lcdBytesAreSent : Obligations.LcdBytesAreSent := by
  intro c v w vs a d rest s hi
  refine ⟨fun hd => ?_, fun hc hd => ?_, fun hv hd => ?_⟩
  · exact perform_ret hi (Passes.sendNibble (hiNibble Config.CMD_4BIT_HALF) false v w) hd
  · have hsend : ∀ cmd, perform (sendCommandCode cmd ++ [.ret]) s = .next (s.afterItem (c.events cmd) rest) :=
      fun cmd => perform_ret hi (Passes.sendCommand cmd c hc) hd
    exact ⟨hsend _, hsend _, hsend _, hsend _⟩
  · obtain ⟨v1, v2, v3, v4, rfl⟩ := List.length_eq_four.mp hv
    exact perform_ret hi (Passes.dataByte d v1 v2 v3 v4) hd

/-- Settles O43: pseudocode but a direct PULSE or FRAME is made of statements that write legal frames only. -/
theorem sequencedWritesAreLegalFrames : Obligations.SequencedWritesAreLegalFrames := by
  intro i s t hi h
  have ha := exec_answers hi h
  cases i with
  | pulse base =>
    cases ha with
    | runs hc =>
      cases hc with
      | pulse =>
        obtain ⟨evs, ht, hw⟩ := State.go_pulse_writes base s.draws s
        exact ⟨evs, ht, fun hne => absurd rfl (hne base), by rintro _ ⟨⟩; exact hw⟩
  | frame n bl en rs =>
    obtain ⟨evs, _, ht, -, -⟩ := ha.callsAnswered (by simp)
    exact ⟨evs, ht, fun _ hne => absurd rfl (hne n bl en rs), nofun⟩
  | _ =>
    obtain ⟨evs, ht, hlegal⟩ := ha.legalSince nofun nofun
    exact ⟨evs, ht, fun _ _ => hlegal, nofun⟩

/-- Settles O49: one call for every answer of the piece, and one sleep for every busy answer. -/
theorem operationsMakeTheirCalls : Obligations.OperationsMakeTheirCalls := by
  intro c r f q vs cmd base n rs en bl pos valid text tail rest s hi
  refine ⟨?_, fun hv hd i h => ?_, fun hd => ?_, fun hv hd i h => ?_, fun hc hd h0 h31 i h => ?_, fun hr hd => ?_,
    fun hcap hvalid htext hn hf hd => ?_⟩
  · exact ⟨_, exec_encode hi n rs en bl, [], by simp, rfl, rfl⟩
  · obtain ⟨v, w, rfl⟩ := List.length_eq_two.mp hv
    rcases h with ⟨rfl, hb⟩ | rfl
    · rw [exec_pulse_enableSet hb]
      exact (Passes.pulse base v w).with.callsMade hi hd (Action.closes_answer none) rfl rfl
    · exact (Passes.sendNibble (hiNibble cmd) false v w).with.callsMade hi hd (Action.closes_answer none) rfl rfl
  · exact (Passes.readBusy q).with.callsMade hi hd Action.closes_answerBusy rfl rfl
  · obtain ⟨v1, v2, v3, v4, rfl⟩ := List.length_eq_four.mp hv
    have hsent := (Passes.dataByte cmd v1 v2 v3 v4).with.callsMade hi hd (Action.closes_answer none) rfl
      (Sleeps.dataEvents cmd)
    rcases h with rfl | rfl <;> exact hsent
  · rcases h with rfl | rfl | rfl
    · exact (Passes.sendCommand cmd c hc).with.commandMade hi hd
    · exact (PassesWith.clear c hc).commandMade hi hd
    · rw [exec_setCursor_inRange h0 h31]
      exact (PassesWith.moveTo pos.toNat c hc).commandMade hi hd
  · exact (PassesWith.init r hr).callsMade hi hd (Action.closes_answer none) r.draws_length (Sleeps.init r)
  · rw [exec, execFlush_of_message hi (State.message_of_valid hcap hvalid htext hn)]
    exact (PassesWith.flush text f hf).callsMade hi hd Action.closes_ret (f.draws_length hf) (Sleeps.flush f text)

/-- Settles O3: the decoder evaluates each word to its instruction. -/
theorem writtenOutWordsDecode : Obligations.WrittenOutWordsDecode := by
  exact ⟨rfl, rfl, rfl, rfl, rfl, rfl, rfl, rfl, rfl, rfl, rfl, rfl⟩

/-- Settles O4: the decoder answers REQ.INVALID, or rejects the operand by name. -/
theorem invalidRequestsAreRefused : Obligations.InvalidRequestsAreRefused := by
  refine ⟨fun s rest hi hl hr => ⟨fun op hop hq => ?_, fun p hp hq => ?_, fun p hp hq => ?_⟩, fun s op base hi =>
    ⟨exec_reqInvalid hi op, exec_pulse_enableClear hi⟩⟩
  · have hd : decodeAs s.lane s.requests = .ok (.reqInvalid op, rest) := by
      rw [hl, hq]; exact decodeRequest_invalid hop rest
    rw [step_decoded hr hi (by simp [hq]) hd]
    exact exec_reqInvalid (by exact hi) op
  · refine step_undecodable hr hi (by simp [hq]) ?_
    rw [hl, hq]
    exact decodeRequest_encodeBitSeven hp rest
  · refine step_undecodable hr hi (by simp [hq]) ?_
    rw [hl, hq]
    exact decodeRequest_pulseEnableClear hp rest

/-- Settles O5: the frame is the nibble joined with the four bits, so the OR is the sum. -/
theorem frameFieldsAreDisjoint : Obligations.FrameFieldsAreDisjoint := fun n bl en rw rs =>
  ⟨packFrame_toNat n bl en rw rs, hiNibble_packFrame n bl en rw rs, packFrame_backlight n bl en rw rs,
    packFrame_enable n bl en rw rs, packFrame_readWrite n bl en rw rs, packFrame_registerSelect n bl en rw rs⟩

/-- Settles O6: joining is concatenation of bit vectors. -/
theorem nibblesJoinToTheByte : Obligations.NibblesJoinToTheByte := by
  intro b h l
  refine ⟨rfl, joinNibbles_toNat h l, by omega, ?_, ?_, ?_, joinNibbles_hiNibble_loNibble b⟩
  · simp [joinNibbles, Config.DATA_LO]
  · decide +revert
  · decide +revert

/-- Settles O7: the words are the encoder's, and the decoder has no case from 4 on. -/
theorem responseWordsHaveTheirStatus : Obligations.ResponseWordsHaveTheirStatus := fun _ e =>
  ⟨rfl, rfl, rfl, rfl, rfl, fun _ h => decodeResponse_unused h e⟩

/-- Settles O10: by the bits of the mask; the numbers over all bytes. -/
theorem enableMaskFlipsBitTwo : Obligations.EnableMaskFlipsBitTwo := by
  intro x
  refine ⟨?_, enableLow_getLsbD x, ?_, ?_⟩
  · rw [enableLow, enableLow, BitVec.xor_assoc, BitVec.xor_self, BitVec.xor_zero]
  · decide +revert
  · decide +revert

/-- Settles O14: the high nibble of the first read is the high nibble of the status byte. -/
theorem busyIsBitSevenOfTheFirstRead : Obligations.BusyIsBitSevenOfTheFirstRead := by
  intro r1 r2
  have h := busyFlag_reads r1 r2
  refine ⟨rfl, h, h.trans ?_⟩
  simp [hiNibble, Config.DATA_LO, Config.DATA_HI]

/-- Settles O16: H says which read it is; the nibble and the flag are the fields of the packed bytes. -/
theorem readBytesAndStatusAreTaken : Obligations.ReadBytesAndStatusAreTaken := by
  intro h x b a s hi
  refine ⟨fun hH => ?_, fun hH => ?_, ?_⟩
  · rw [exec_readByte hi, State.takeRead_first hH, State.setH, hiNibble_joinNibbles]
    rfl
  · rw [exec_readByte hi, State.takeRead_second hH, State.setL, hiNibble_joinNibbles]
    rfl
  · rw [exec_status hi, State.takeStatus, statusBusy, packStatus_bitSeven]
    rfl

/-- Settles O17: the response is answered without an event. -/
theorem responseIsPresented : Obligations.ResponseIsPresented := by
  intro r s hi
  rw [exec_response hi]
  simp only [State.finish, State.idle, State.after, List.append_nil, portFrom_nil]

/-- Settles O18: the frames of the two nibbles, as commands and as data. -/
theorem byteTravelsAsFourFrames : Obligations.ByteTravelsAsFourFrames := by
  intro b rs
  rw [sendByteCode, sendNibbleCode, sendNibbleCode, pulseCode, pulseCode]
  cases rs with
  | false =>
    rw [commandFrame_hi_low, commandFrame_hi, commandFrame_lo_low, commandFrame_lo]
    simp
  | true =>
    rw [dataFrame_hi_low, dataFrame_hi, dataFrame_lo_low, dataFrame_lo]
    simp [BitVec.or_assoc]

/-- Settles O29: line 1 begins at 0x00 and line 2 at 0x40. -/
theorem positionsMapToDdram : Obligations.PositionsMapToDdram := by
  intro p hp
  have hle := ddramAddr_le hp
  exact ⟨ddramAddr_line1, ddramAddr_line2, hle, rfl, setDdram_toNat (by omega),
    fun _ hq h => ddramAddr_injOn hp hq h⟩
end

section
/-! Operations of one piece that answer (R120, R122, R124): with no failing call, and with the call that fails named. -/

namespace Sys2Proof.Machine

open Sys2Proof

variable {s : State} {code : List Action} {D rest : List Draw} {evs done : List Event} {call : Event} {n : Nat}

/-! ## The call of a number -/

/-- A call behind another has a higher number. -/
theorem CallAt.eq_of_prefix {done' : List Event} {call' : Event} (h : CallAt evs n done call)
    (h' : CallAt evs n done' call') (hp : done ++ [call] <+: done' ++ [call']) : done = done' ∧ call = call' := by
  obtain ⟨-, hn, hcall⟩ := h
  obtain ⟨-, hn', -⟩ := h'
  rcases List.prefix_concat_iff.mp hp with heq | hlt
  · simpa using heq
  · have hle := (hlt.filter Event.isCall).length_le
    simp [hcall, hn, hn'] at hle

/-- The events and the number say which call it is. -/
theorem CallAt.unique {done' : List Event} {call' : Event} (h : CallAt evs n done call)
    (h' : CallAt evs n done' call') : done = done' ∧ call = call' := by
  rcases List.prefix_or_prefix_of_prefix h.1 h'.1 with hp | hp
  · exact h.eq_of_prefix h' hp
  · obtain ⟨hdone, hcall⟩ := h'.eq_of_prefix h hp
    exact ⟨hdone.symm, hcall.symm⟩

/-! ## Answers -/

theorem State.finish_eq_after_noEvent (s : State) (r : Response) : s.finish r = s.after [] s.draws r :=
  State.finish_eq_after (u := s) (evs := []) (by rw [State.did_nil]) s.draws r

/-- No call of the piece fails. -/
theorem perform_answer (hi : s.Idle) (hp : Passes code D evs) (hd : s.draws = D ++ rest) (v : Option Byte) :
    perform (code ++ [.answer v]) s = .next (s.after evs rest (.ok v)) := by
  obtain ⟨u, hu, hidle⟩ := hp.2 rest [.answer v] s
  rw [perform_eq_go hi, hd, hu, State.go_answer, State.finish_eq_after hidle]

/-- The piece's call number `n` fails: the operation ends there with BusError, whatever code is left (R228). -/
theorem perform_busError (hi : s.Idle) (hs : Stops code D evs) (hc : CallAt evs n done call) (hn : n < D.length)
    {e : BusErrInfo} (hd : s.draws = D.take n ++ .err e :: rest) (k : List Action) :
    perform (code ++ k) s = .next (s.after (done ++ [call.asFailed]) rest (.error (.busError e))) := by
  obtain ⟨done', call', hc', hgo⟩ := hs n e rest k s hn
  obtain ⟨rfl, rfl⟩ := hc.unique hc'
  rw [perform_eq_go hi, hd, hgo]
  rfl

/-! ## PULSE, READ_BUSY and ENCODE -/

theorem Stops.pulse (base v x : Byte) :
    Stops (pulseCode base) [.ok v, .ok x] [.write base, .write (enableLow base)] :=
  (Stops.write base v).append (Passes.write base v) (Stops.write (enableLow base) x)

/-- READ_BUSY when nothing fails (R124). -/
theorem exec_readBusy (hi : s.Idle) (q : StatusRead) (hd : s.draws = q.draws ++ rest) :
    exec .readBusy s = .next (s.after q.events rest (.ok (some (busyByte q.saysBusy)))) := by
  rw [exec, execReadBusy, perform_eq_go hi, hd, State.go_readBusy, State.go_answerBusy (b := q.saysBusy) rfl]
  rfl

/-- READ_BUSY when one of its five calls fails (R126). -/
theorem exec_readBusy_busError (hi : s.Idle) (q : StatusRead) (hc : CallAt q.events n done call) (hn : n < 5)
    {e : BusErrInfo} (hd : s.draws = q.draws.take n ++ .err e :: rest) :
    exec .readBusy s = .next (s.after (done ++ [call.asFailed]) rest (.error (.busError e))) :=
  perform_busError hi (Stops.readBusy q) hc hn hd [.answerBusy]

theorem busyByte_eq_ite (b : Bool) : busyByte b = if b then 1#8 else 0#8 := by
  cases b <;> rfl

/-- R120's formula, without the read/write bit, which is 0. -/
theorem encodeFrame_eq_or (n : Nibble) (rs en bl : Bool) :
    encodeFrame n rs en bl
      = (n.setWidth 8 <<< 4) ||| ((BitVec.ofBool bl).setWidth 8 <<< 3) ||| ((BitVec.ofBool en).setWidth 8 <<< 2)
          ||| (BitVec.ofBool rs).setWidth 8 := by
  have hrw : bitByte false <<< Config.RW_BIT = 0#8 := rfl
  have hrs : bitByte rs <<< Config.RS_BIT = (BitVec.ofBool rs).setWidth 8 := BitVec.shiftLeft_zero _
  rw [encodeFrame, packFrame, hrw, hrs, BitVec.or_zero]
  rfl

/-- The enable mask flips the enable field (R102). -/
theorem enableLow_packFrame (n : Nibble) (bl en rw rs : Bool) :
    enableLow (packFrame n bl en rw rs) = packFrame n bl (!en) rw rs := by
  decide +revert

end Sys2Proof.Machine
end

section
/-! The statements of the family 40_codec.md. -/

open Sys2Proof Sys2Proof.Machine

/-- Settles O8: the frame is answered at once, and its read/write bit adds nothing. -/
theorem encodeAnswersTheFrame : Obligations.EncodeAnswersTheFrame := by
  intro n rs en bl s hi
  refine ⟨?_, rfl⟩
  rw [exec_encode hi, State.finish_eq_after_noEvent, encodeFrame_eq_or]

/-- Settles O9: the fields of a frame are read back; the table row by row. -/
theorem encodeIsInjective : Obligations.EncodeIsInjective := by
  refine ⟨fun n rs en bl => ?_, by decide, by decide, by decide, by decide⟩
  exact ⟨hiNibble_packFrame n bl en false rs, packFrame_registerSelect n bl en false rs,
    packFrame_enable n bl en false rs, packFrame_backlight n bl en false rs, packFrame_readWrite n bl en false rs,
    enableLow_packFrame n bl true false rs⟩

/-- Settles O11: the two writes pass, or the first or the second one is the call that fails. -/
theorem pulseWritesTwice : Obligations.PulseWritesTwice := by
  intro base v w e rest s hi hb
  rw [exec_pulse_enableSet hb]
  refine ⟨fun hd => ?_, fun hd => ?_, fun hd => ?_⟩
  · exact perform_answer hi (Passes.pulse base v w) hd none
  · exact perform_busError hi (Stops.pulse base v w) (done := []) (n := 0) ⟨⟨_, rfl⟩, rfl, rfl⟩ Nat.two_pos hd _
  · exact perform_busError hi (Stops.pulse base v w) (done := [.write base]) (n := 1) ⟨⟨_, rfl⟩, rfl, rfl⟩
      Nat.one_lt_two hd _

/-- Settles O12: the flag of the two reads is bit 7 of the first, which is what the status read answers. -/
theorem readBusyAnswersTheFlag : Obligations.ReadBusyAnswersTheFlag := by
  intro q rest s hi hd
  have hflag : (((q.r1.extractLsb' 4 4).setWidth 8 <<< 4) ||| (q.r2.extractLsb' 4 4).setWidth 8 : Byte).getLsbD 7
      = q.saysBusy := Option.some.inj (busyFlag_reads q.r1 q.r2)
  rw [hflag, ← busyByte_eq_ite]
  exact exec_readBusy hi q hd

/-- Settles O13: the status read stops at its failed call, here each of the five. -/
theorem readBusyStopsAtItsFailedCall : Obligations.ReadBusyStopsAtItsFailedCall := by
  intro q e rest s hi
  refine ⟨fun hd => ?_, fun hd => ?_, fun hd => ?_, fun hd => ?_, fun hd => ?_⟩
  · exact exec_readBusy_busError hi q (n := 0) (done := []) ⟨⟨_, rfl⟩, rfl, rfl⟩ (by decide) hd
  · exact exec_readBusy_busError hi q (n := 1) (done := [.write 0xFE#8]) ⟨⟨_, rfl⟩, rfl, rfl⟩ (by decide) hd
  · exact exec_readBusy_busError hi q (n := 2) (done := [.write 0xFE#8, .read q.r1]) ⟨⟨_, rfl⟩, rfl, rfl⟩
      (by decide) hd
  · exact exec_readBusy_busError hi q (n := 3) (done := [.write 0xFE#8, .read q.r1, .write 0xFA#8]) ⟨⟨_, rfl⟩, rfl, rfl⟩
      (by decide) hd
  · exact exec_readBusy_busError hi q (n := 4) (done := [.write 0xFE#8, .read q.r1, .write 0xFA#8, .write 0xFE#8])
      ⟨⟨_, rfl⟩, rfl, rfl⟩ (by decide) hd
end

section
/-! A piece that stops at its failed call, from an idle block (R52, R228), and SEND_HALF_COMMAND's piece (R151). -/

namespace Sys2Proof.Machine

open Sys2Proof

variable {s : State} {code : List Action} {D rest : List Draw} {evs : List Event} {n : Nat}

/-- The piece's call number `n` fails, and no state register is written (R229). -/
theorem perform_stoppedAt (hi : s.Idle) (hs : Stops code D evs) (hn : n < D.length) {e : BusErrInfo}
    (hd : s.draws = D.take n ++ .err e :: rest) (k : List Action) :
    ∃ t, perform (code ++ k) s = .next t ∧ StoppedAt s t evs n e rest
      ∧ t = { t with phase := s.phase, cursor := s.cursor, lbBuf := s.lbBuf, lbOff := s.lbOff } := by
  obtain ⟨done, call, hc, hgo⟩ := hs n e rest k s hn
  refine ⟨_, ?_, stoppedAt_failed (u := s) rfl rfl rfl hc e rest, rfl⟩
  rw [perform_eq_go hi, hd, hgo]

/-- SEND_HALF_COMMAND's two frames (R151). -/
def halfCommandFrames (cmd : Byte) : List Event :=
  [.write ((cmd &&& 0xF0#8) ||| 0x0C#8), .write ((cmd &&& 0xF0#8) ||| 0x08#8)]

theorem Passes.halfCommand (cmd v w : Byte) :
    Passes (sendHalfCommandCode cmd) [.ok v, .ok w] (halfCommandFrames cmd) := by
  have h := Passes.sendNibble (hiNibble cmd) false v w
  rwa [commandFrame_hi_low, commandFrame_hi] at h

theorem Stops.halfCommand (cmd v w : Byte) :
    Stops (sendHalfCommandCode cmd) [.ok v, .ok w] (halfCommandFrames cmd) := by
  have h := Stops.sendNibble (hiNibble cmd) false v w
  rwa [commandFrame_hi_low, commandFrame_hi] at h

end Sys2Proof.Machine
end

section
/-! Polls that never clear (R153, R269): where the block stands after busy answers, and what the next ones change. -/

namespace Sys2Proof.Machine

open Sys2Proof

variable {s : State}

/-! ## Waiting in the poll -/

theorem busyEvents_append (qs more : List StatusRead) : busyEvents (qs ++ more) = busyEvents qs ++ busyEvents more :=
  List.flatMap_append

theorem busyDraws_ne_nil {qs : List StatusRead} (h : qs ≠ []) : busyDraws qs ≠ [] := by
  obtain ⟨q, qs, rfl⟩ := List.exists_cons_of_ne_nil h
  nofun

theorem State.awaiting_of_polling {k : List Action} (hp : s.position = waitNotBusyCode ++ k) : s.awaiting = true := by
  rw [State.awaiting, hp]
  rfl

/-- A block that stands at the first call of a status read goes on as one that begins the poll. -/
theorem State.run_eq_go_of_polling {k : List Action} (hp : s.position = waitNotBusyCode ++ k) (ds : List Draw) :
    State.run ds s = State.go ds (waitNotBusyCode ++ k) s := by
  have hstands : State.settle (waitNotBusyCode ++ k) s = s.goTo s.position := by rw [hp]; rfl
  rw [State.go, hstands]
  rfl

/-- Busy answers to a block that stands in its poll: events, the lines and the working registers change, and it stands
there again. -/
theorem State.run_polling {k : List Action} (hp : s.position = waitNotBusyCode ++ k) (hd : s.draws = [])
    {qs : List StatusRead} (hq : ∀ q ∈ qs, q.saysBusy = true) (hne : qs ≠ []) :
    ∃ H L, State.run (busyDraws qs) s
      = { s with trace := s.trace ++ busyEvents qs, port := some 0xFE#8, H := H, L := L, busy := some true } := by
  obtain ⟨H, L, b, hgo, hb⟩ := State.go_busyReads_end qs hq k s
  refine ⟨H, L, ?_⟩
  rw [State.run_eq_go_of_polling hp, hgo, hb hne, ← hp, ← hd, ← portFrom_busyEvents qs hne s.port]
  rfl

/-- Code that comes to the poll `p` and finds busy answers only stands in that poll, with the registers of `p`. -/
theorem ComesTo.polling {code : List Action} {p : PollPoint} (h : ComesTo code p) {qs : List StatusRead}
    (hq : ∀ q ∈ qs, q.saysBusy = true) (base : State) :
    ∃ k t, State.go (p.draws ++ busyDraws qs) code base = t ∧ t.position = waitNotBusyCode ++ k ∧ t.draws = []
      ∧ t.trace = base.trace ++ p.events ++ busyEvents qs ∧ t.resetLine = base.resetLine
      ∧ t = { t with phase := p.phase.getD base.phase, cursor := p.cursor.or base.cursor, lbBuf := base.lbBuf,
                     lbOff := base.lbOff, response := base.response } := by
  obtain ⟨before, k, rfl, -, hpass⟩ := h
  obtain ⟨u, hu, hidle⟩ := hpass (busyDraws qs) (waitNotBusyCode ++ k) base
  have hphase : u.phase = p.phase.getD base.phase := (congrArg State.phase hidle :)
  have hcursor : u.cursor = p.cursor.or base.cursor := (congrArg State.cursor hidle :)
  have hlbBuf : u.lbBuf = base.lbBuf := (congrArg State.lbBuf hidle :)
  have hlbOff : u.lbOff = base.lbOff := (congrArg State.lbOff hidle :)
  have hresponse : u.response = base.response := (congrArg State.response hidle :)
  have hreset : u.resetLine = base.resetLine := (congrArg State.resetLine hidle :)
  have htrace : u.trace = base.trace ++ p.events := (congrArg State.trace hidle :)
  obtain ⟨H, L, b, hgo, -⟩ := State.go_busyReads_end qs hq k u
  refine ⟨k, _, hu.trans hgo, rfl, rfl, ?_, hreset, ?_⟩
  · rw [← htrace]
    rfl
  · rw [← hphase, ← hcursor, ← hlbBuf, ← hlbOff, ← hresponse]
    rfl

/-- Code that comes to a poll begins and polls on in the step that begins it and in the next one. -/
theorem ComesTo.pollsForEver {code : List Action} {i : Instr} {base : State} {p : PollPoint} (h : ComesTo code p)
    (hexec : ∀ ds, exec i (s.withDraws ds) = .next (State.go ds code base)) (hr : base.resetLine = false)
    (ht : base.trace = s.trace) : PollsForEver i s base p := by
  intro qs more hq hne
  have hqs : ∀ q ∈ qs, q.saysBusy = true := fun q hm => hq q (List.mem_append_left _ hm)
  have hmore : ∀ q ∈ more, q.saysBusy = true := fun q hm => hq q (List.mem_append_right _ hm)
  obtain ⟨k, t, hgo, hpos, hdraws, htrace, hreset, hregs⟩ := h.polling hqs base
  obtain ⟨H, L, hrun⟩ := State.run_polling hpos hdraws hmore hne
  rw [ht] at htrace
  refine ⟨t, _, (hexec _).trans (congrArg _ hgo), ?_, hdraws, htrace, hregs,
    step_awaiting (hreset.trans hr) (State.awaiting_of_polling hpos) (busyDraws_ne_nil hne), ?_⟩
  · rw [hpos]
    nofun
  · rw [hrun, htrace, List.append_assoc, ← busyEvents_append]

/-! ## Operations as the running of their code, whatever the answers -/

theorem perform_withDraws (hi : s.Idle) (code : List Action) (ds : List Draw) :
    perform code (s.withDraws ds) = .next (State.go ds code s) := by
  rw [perform_eq_go (s := s.withDraws ds) hi, State.go_withDraws, State.withDraws_draws]

/-- An instruction that runs `code` from an idle state polls for ever at each poll to which `code` comes. -/
theorem pollsForEver_of_perform (hi : s.Idle) (hr : s.resetLine = false) {i : Instr} {code : List Action} {a : Action}
    (hexec : ∀ ds, exec i (s.withDraws ds) = perform (code ++ [a]) (s.withDraws ds)) {p : PollPoint}
    (h : ComesTo code p) : PollsForEver i s s p :=
  (h.append [a]).pollsForEver (fun ds => (hexec ds).trans (perform_withDraws hi _ ds)) hr rfl

/-! ## APPEND that flushes (R200, R202) -/

/-- The valid part after a store is the old one and the stored bytes. -/
theorem State.validIs_stored {valid bytes : List Byte} {m : Memory} (hv : s.validIs valid)
    (hm : lbStore s.lbBuf s.lbOff bytes = .ok m) :
    (s.stored m (s.lbOff + bytes.length)).validIs (valid ++ bytes) := by
  obtain ⟨hlen, hread⟩ := hv
  refine ⟨by rw [List.length_append, hlen]; rfl, fun i b hb => ?_⟩
  show m.read i = some b
  rw [lbStore_read hm]
  by_cases hlt : i < valid.length
  · rw [List.getElem?_append_left hlt] at hb
    rw [if_neg (by omega)]
    exact hread i b hb
  · rw [List.getElem?_append_right (by omega), hlen] at hb
    obtain ⟨hin, -⟩ := List.getElem?_eq_some_iff.mp hb
    rw [if_pos (by omega)]
    exact hb

theorem execAppend_of_message (hi : s.Idle) {bytes text : List Byte} {m : Memory}
    (hfit : s.lbOff + bytes.length ≤ Config.BUF_CAP) (hm : lbStore s.lbBuf s.lbOff bytes = .ok m)
    (htext : (s.stored m (s.lbOff + bytes.length)).message = .ok (some text)) :
    execAppend s.lbOff bytes s
      = perform (flushCode text ++ [.answer (some (countByte bytes.length))])
          (s.stored m (s.lbOff + bytes.length)) := by
  rw [execAppend, whenIdle_idle hi, if_neg (not_not.mpr rfl), if_neg (Nat.not_lt.mpr hfit)]
  simp only [hm]
  rw [State.stored] at htext
  rw [appendStored, htext]
  rfl

end Sys2Proof.Machine
end

section
/-! Pseudocode in every environment (R155, R266): what a piece of writes hands to the transport, and how a poll ends. -/

namespace Sys2Proof.Machine

open Sys2Proof

variable {s : State}

/-! ## Writes only -/

/-- Whatever the transport answers, a piece of writes makes write events only: its bytes in order, and no more. -/
theorem State.go_writes (vs : List Byte) (r : Option Byte) (ds : List Draw) (s : State) :
    ∃ evs, (State.go ds (vs.map .write ++ [.answer r]) s).trace = s.trace ++ evs
      ∧ evs.map Event.written <+: vs.map some := by
  induction vs generalizing ds s with
  | nil => exact ⟨[], by rw [List.map_nil, List.nil_append, State.go_answer]; simp, List.prefix_refl _⟩
  | cons v vs ih =>
    rw [List.map_cons, List.cons_append]
    match ds with
    | [] => exact ⟨[], by rw [State.go_noAnswer rfl]; simp, List.nil_prefix⟩
    | .err e :: ds => exact ⟨[.writeErr v], by rw [State.go_write_fail]; rfl, by simp [Event.written]⟩
    | .ok x :: ds =>
      obtain ⟨evs, ht, hw⟩ := ih ds (s.wrote v)
      refine ⟨.write v :: evs, ?_, List.prefix_cons_inj _ |>.mpr hw⟩
      rw [State.go_write_ok, ht, State.wrote_trace, List.append_assoc, List.singleton_append]

/-- The bytes of the frames of a nibble (R150). -/
def nibbleBytes (n : Nibble) (rs : Bool) : List Byte := [nibbleFrame n rs, enableLow (nibbleFrame n rs)]

/-- The bytes of the frames of a byte (R91). -/
def byteBytes (b : Byte) (rs : Bool) : List Byte := nibbleBytes (hiNibble b) rs ++ nibbleBytes (loNibble b) rs

theorem sendNibbleCode_eq_writes (n : Nibble) (rs : Bool) : sendNibbleCode n rs = (nibbleBytes n rs).map .write := rfl

theorem sendByteCode_eq_writes (b : Byte) (rs : Bool) : sendByteCode b rs = (byteBytes b rs).map .write := rfl

theorem Event.written_of_prefix {evs : List Event} {vs : List Byte} (h : evs.map Event.written <+: vs.map some)
    {e : Event} (he : e ∈ evs) : ∃ v ∈ vs, e.written = some v := by
  obtain ⟨v, hv, heq⟩ := List.mem_map.mp (h.subset (List.mem_map_of_mem he))
  exact ⟨v, hv, heq.symm⟩

/-- An operation of writes only. -/
theorem trace_of_perform_writes (hi : s.Idle) {vs : List Byte} {t : State}
    (h : perform (vs.map .write ++ [.answer none]) s = .next t) :
    ∃ evs, t.trace = s.trace ++ evs ∧ ∀ e ∈ evs, e.written.isSome = true := by
  obtain ⟨evs, ht, hw⟩ := State.go_writes vs none s.draws s
  rw [perform_eq_go hi] at h
  cases h
  refine ⟨evs, ht, fun e he => ?_⟩
  obtain ⟨v, -, hv⟩ := Event.written_of_prefix hw he
  rw [hv]
  rfl

/-! ## Frames and probes -/

@[simp] theorem Event.asFailed_written (e : Event) : e.asFailed.written = e.written := by cases e <;> rfl

theorem Event.asFailed_isFrame (e : Event) : e.asFailed.isFrame = e.isFrame := by
  rw [Event.isFrame, Event.asFailed_written, Event.isFrame]

/-- A frame has RW = 0, and the probes have RW = 1 (R80, R83). -/
theorem packFrame_ne_probe (n : Nibble) (bl en rs : Bool) :
    packFrame n bl en false rs ≠ Config.BUSY_PROBE_HI ∧ packFrame n bl en false rs ≠ Config.BUSY_PROBE_LO := by
  have hrw := packFrame_readWrite n bl en false rs
  refine ⟨fun hprobe => ?_, fun hprobe => ?_⟩
  · rw [hprobe] at hrw
    exact absurd hrw (by decide)
  · rw [hprobe] at hrw
    exact absurd hrw (by decide)

theorem ne_probe_of_mem_nibbleBytes {n : Nibble} {rs : Bool} {v : Byte} (hv : v ∈ nibbleBytes n rs) :
    v ≠ Config.BUSY_PROBE_HI ∧ v ≠ Config.BUSY_PROBE_LO := by
  rw [nibbleBytes, nibbleFrame, encodeFrame, enableLow_packFrame] at hv
  rcases List.mem_pair.mp hv with rfl | rfl <;> exact packFrame_ne_probe _ _ _ _

theorem Event.isFrame_of_written_byteBytes {b : Byte} {rs : Bool} {e : Event} {v : Byte} (hv : v ∈ byteBytes b rs)
    (he : e.written = some v) : e.isFrame = true := by
  have hne : v ≠ Config.BUSY_PROBE_HI ∧ v ≠ Config.BUSY_PROBE_LO := by
    rcases List.mem_append.mp hv with h | h <;> exact ne_probe_of_mem_nibbleBytes h
  rw [Event.isFrame, he]
  simp [hne]

/-- No event hands a frame to the transport. -/
def NoFrame (evs : List Event) : Prop := ∀ x ∈ evs, x.isFrame = false

theorem NoFrame.append {evs more : List Event} (h : NoFrame evs) (g : NoFrame more) : NoFrame (evs ++ more) :=
  fun x hx => (List.mem_append.mp hx).elim (h x) (g x)

theorem NoFrame.sleep (ms : Nat) : NoFrame [.sleep ms] := fun _ hx => List.mem_singleton.mp hx ▸ rfl

theorem StatusRead.events_noFrame (q : StatusRead) : NoFrame q.events := by
  simp [NoFrame, StatusRead.events, Event.isFrame, Event.written, Config.BUSY_PROBE_HI, Config.BUSY_PROBE_LO]

/-! ## A poll in every environment -/

/-- Answers reach through `n` calls, or a call among these fails, now or if one more answer came. -/
theorem draws_reach_or_fail (n : Nat) (ds : List Draw) :
    (∃ (vs : List Byte) (rest : List Draw), vs.length = n ∧ ds = vs.map .ok ++ rest)
    ∨ ∃ (vs : List Byte) (m : Nat) (e : BusErrInfo) (rest more : List Draw),
        vs.length = n ∧ m < n ∧ ds ++ more = (vs.map .ok).take m ++ .err e :: rest := by
  induction n generalizing ds with
  | zero => exact .inl ⟨[], ds, rfl, rfl⟩
  | succ n ih =>
    match ds with
    | [] => exact .inr ⟨List.replicate (n + 1) 0, 0, [], [], [.err []], List.length_replicate, Nat.succ_pos n, rfl⟩
    | .err e :: ds =>
      exact .inr ⟨List.replicate (n + 1) 0, 0, e, ds, [], List.length_replicate, Nat.succ_pos n, by simp⟩
    | .ok v :: ds =>
      rcases ih ds with ⟨vs, rest, hl, rfl⟩ | ⟨vs, m, e, rest, more, hl, hm, hds⟩
      · exact .inl ⟨v :: vs, rest, congrArg Nat.succ hl, rfl⟩
      · exact .inr ⟨v :: vs, m + 1, e, rest, more, congrArg Nat.succ hl, Nat.succ_lt_succ hm,
          congrArg (Draw.ok v :: ·) hds⟩

theorem StatusRead.exists_draws {vs : List Byte} (h : vs.length = 5) : ∃ q : StatusRead, q.draws = vs.map .ok := by
  match vs, h with
  | [a, r1, b, c, r2], _ => exact ⟨⟨a, r1, b, c, r2⟩, rfl⟩

/-- Further answers only make the trace longer. -/
theorem State.go_trace_prefix (first more : List Draw) (code : List Action) (s : State) :
    (State.go first code s).trace <+: (State.go (first ++ more) code s).trace := by
  obtain ⟨evs, -, ht, -⟩ := State.run_trace ((State.go first code s).draws ++ more) (State.go first code s)
  exact ⟨evs, by rw [State.go_append, ht]⟩

/-- A status read that fails, or waits for an answer, hands no frame to the transport. -/
theorem State.go_readBusy_unfinished {q : StatusRead} {n : Nat} (hn : n < 5) {e : BusErrInfo} {ds more rest : List Draw}
    (hd : ds ++ more = q.draws.take n ++ .err e :: rest) (k : List Action) (s : State) :
    ∃ evs, (State.go ds (readBusyCode ++ k) s).trace = s.trace ++ evs ∧ NoFrame evs := by
  obtain ⟨done, call, ⟨hprefix, -, -⟩, hgo⟩ := Stops.readBusy q n e rest k s hn
  obtain ⟨evs, -, ht, -⟩ := State.go_trace ds (readBusyCode ++ k) s
  have hevs : evs <+: done ++ [call.asFailed] := by
    have h := State.go_trace_prefix ds more (readBusyCode ++ k) s
    rw [hd, hgo, ht] at h
    exact (List.prefix_append_right_inj _).mp h
  have hquiet : NoFrame (done ++ [call]) := fun x hx => q.events_noFrame x (hprefix.subset hx)
  have hfailed : NoFrame [call.asFailed] := by
    intro x hx
    rw [List.mem_singleton.mp hx, Event.asFailed_isFrame]
    exact hquiet call (by simp)
  have hdone : NoFrame done := fun x hx => hquiet x (List.mem_append_left _ hx)
  exact ⟨evs, ht, fun x hx => hdone.append hfailed x (hevs.subset hx)⟩

/-- All that one turn of the poll can come to: it ends, or waits, without a frame, or its status read says clear and the
code goes on, or it says busy and the poll goes on after the sleep (R153). -/
theorem State.go_pollTurn (ds : List Draw) (k : List Action) (s : State) :
    (∃ evs, (State.go ds (waitNotBusyCode ++ k) s).trace = s.trace ++ evs ∧ NoFrame evs)
    ∨ (∃ (q : StatusRead) (rest : List Draw) (u : State), State.go ds (waitNotBusyCode ++ k) s = State.go rest k u
        ∧ u.trace = s.trace ++ q.events ∧ q.saysBusy = false)
    ∨ ∃ (q : StatusRead) (rest : List Draw) (u : State), ds = q.draws ++ rest
        ∧ State.go ds (waitNotBusyCode ++ k) s = State.go rest (waitNotBusyCode ++ k) u
        ∧ u.trace = s.trace ++ (q.events ++ [.sleep 10]) := by
  have hcode : waitNotBusyCode ++ k = readBusyCode ++ .testBusy :: k := by simp [waitNotBusyCode]
  rcases draws_reach_or_fail 5 ds with ⟨vs, rest, hl, hds⟩ | ⟨vs, m, e, rest, more, hl, hm, hds⟩
  · obtain ⟨q, hq⟩ := StatusRead.exists_draws hl
    rw [← hq] at hds
    obtain ⟨u, hgo, hbusy, ht⟩ : ∃ u, State.go (q.draws ++ rest) (readBusyCode ++ .testBusy :: k) s
        = State.go rest (.testBusy :: k) u ∧ u.busy = some q.saysBusy ∧ u.trace = s.trace ++ q.events :=
      ⟨_, State.go_readBusy q rest _ s, rfl, rfl⟩
    cases hb : q.saysBusy with
    | false =>
      rw [hb] at hbusy
      exact .inr (.inl ⟨q, rest, u, by rw [hcode, hds, hgo, State.go_testBusy_clear hbusy], ht, hb⟩)
    | true =>
      rw [hb] at hbusy
      refine .inr (.inr ⟨q, rest, _, hds, by rw [hcode, hds, hgo, State.go_testBusy_busy hbusy, hcode], ?_⟩)
      rw [State.emit_trace, ht, List.append_assoc]
      rfl
  · obtain ⟨q, hq⟩ := StatusRead.exists_draws hl
    rw [← hq] at hds
    rw [hcode]
    exact .inl (State.go_readBusy_unfinished hm hds _ s)

/-- All that a poll can come to: it ends, or waits, without a frame, or the code goes on after a status read that says
clear, with no frame before (R153). -/
theorem State.go_poll (ds : List Draw) (k : List Action) (s : State) :
    (∃ evs, (State.go ds (waitNotBusyCode ++ k) s).trace = s.trace ++ evs ∧ NoFrame evs)
    ∨ ∃ (earlier : List Event) (q : StatusRead) (rest : List Draw) (u : State),
        State.go ds (waitNotBusyCode ++ k) s = State.go rest k u ∧ u.trace = s.trace ++ (earlier ++ q.events)
          ∧ NoFrame earlier ∧ q.saysBusy = false := by
  rcases State.go_pollTurn ds k s with hends | ⟨q, rest, u, hgo, ht, hclear⟩ | ⟨q, rest, u, hds, hgo, hu⟩
  · exact .inl hends
  · exact .inr ⟨[], q, rest, u, hgo, ht, nofun, hclear⟩
  · have hquiet : NoFrame (q.events ++ [.sleep 10]) := q.events_noFrame.append (NoFrame.sleep 10)
    rw [hgo]
    rcases State.go_poll rest k u with ⟨evs, ht, hevs⟩ | ⟨earlier, q', rest', u', hgo', ht, hearlier, hclear⟩
    · exact .inl ⟨_, by rw [ht, hu, List.append_assoc], hquiet.append hevs⟩
    · refine .inr ⟨q.events ++ [.sleep 10] ++ earlier, q', rest', u', hgo', ?_, hquiet.append hearlier, hclear⟩
      rw [ht, hu]
      simp only [List.append_assoc]
termination_by ds.length
decreasing_by
  rw [hds, List.length_append]
  exact Nat.lt_add_of_pos_left (Nat.succ_pos _)

/-- Where a list is a part without frames and then frames only, what stands before its first frame is the first part. -/
theorem eq_of_firstFrame {quiet frames before behind : List Event} {e : Event} (hq : NoFrame quiet)
    (hf : ∀ x ∈ frames, x.isFrame = true) (h : quiet ++ frames = before ++ e :: behind) (he : e.isFrame = true)
    (hb : NoFrame before) : before = quiet := by
  have hbefore : (before ++ e :: behind).takeWhile (fun x => !x.isFrame) = before := by
    rw [List.takeWhile_append_of_pos (by simpa [NoFrame] using hb), List.takeWhile_cons_of_neg (by simp [he]),
      List.append_nil]
  have hquiet : (quiet ++ frames).takeWhile (fun x => !x.isFrame) = quiet := by
    rw [List.takeWhile_append_of_pos (by simpa [NoFrame] using hq)]
    cases frames with
    | nil => simp
    | cons x frames => rw [List.takeWhile_cons_of_neg (by simp [hf]), List.append_nil]
  rw [← hbefore, ← h, hquiet]

/-- Whatever the transport answers, SEND_COMMAND writes its first frame straight after a status read that says clear
(R153, R155). -/
theorem State.go_sendCommand_firstFrame (cmd : Byte) (ds : List Draw) (s : State) :
    ∃ evs, (State.go ds (sendCommandCode cmd ++ [.answer none]) s).trace = s.trace ++ evs
      ∧ ∀ before e behind, evs = before ++ e :: behind → e.isFrame = true → NoFrame before →
        ∃ (earlier : List Event) (q : StatusRead), before = earlier ++ q.events ∧ q.saysBusy = false := by
  have hcode : sendCommandCode cmd ++ [.answer none]
      = waitNotBusyCode ++ ((byteBytes cmd false).map .write ++ [.answer none]) := by
    rw [sendCommandCode, sendByteCode_eq_writes, List.append_assoc]
  rw [hcode]
  rcases State.go_poll ds ((byteBytes cmd false).map .write ++ [.answer none]) s with
    ⟨evs, ht, hquiet⟩ | ⟨earlier, q, rest, u, hgo, hu, hquiet, hclear⟩
  · refine ⟨evs, ht, fun before e behind hevs he _ => ?_⟩
    rw [hquiet e (by simp [hevs])] at he
    cases he
  · obtain ⟨evs, ht, hw⟩ := State.go_writes (byteBytes cmd false) none rest u
    have hframes : ∀ x ∈ evs, x.isFrame = true := by
      intro x hx
      obtain ⟨v, hv, hxv⟩ := Event.written_of_prefix hw hx
      exact Event.isFrame_of_written_byteBytes hv hxv
    refine ⟨earlier ++ q.events ++ evs, by rw [hgo, ht, hu, List.append_assoc], fun before e behind hevs he hb => ?_⟩
    exact ⟨earlier, q, eq_of_firstFrame (hquiet.append q.events_noFrame) hframes hevs he hb, hclear⟩

end Sys2Proof.Machine
end

section
/-! The statements of the family 41_nibble_protocol.md. -/

open Sys2Proof Sys2Proof.Machine

/-- Settles O20: the poll and the frames are one piece, which passes with its answers and stops at its failed call. -/
theorem sendCommandPollsThenSends : Obligations.SendCommandPollsThenSends := by
  intro cmd c rest s hi hc
  exact ⟨fun hd => perform_answer hi (Passes.sendCommand cmd c hc) hd none,
    fun n e hn hd => perform_stoppedAt hi (Stops.sendCommand cmd c hc) hn hd _⟩

/-- Settles O21: each operation's code comes to its polls, and code that comes to a poll polls on while it says busy. -/
theorem busyPollNeverGivesUp : Obligations.BusyPollNeverGivesUp := by
  intro cmd pos r f offset bytes valid text tail s hi hr
  refine ⟨fun i h => ?_, fun hc p hp => ?_, fun hcap hv ht hn hf p hp => ?_, fun ho hcap hv ht hn hf => ?_⟩
  · rcases h with rfl | rfl | ⟨rfl, h0, h31⟩
    · exact pollsForEver_of_perform hi hr (fun _ => rfl) (ComesTo.sendCommand cmd)
    · exact pollsForEver_of_perform hi hr (fun _ => rfl) ((ComesTo.sendCommand Config.CMD_CLEAR).append _)
    · exact pollsForEver_of_perform hi hr (fun _ => exec_setCursor_inRange h0 h31)
        ((ComesTo.sendCommand (cursorCommand pos.toNat)).append _)
  · exact pollsForEver_of_perform hi hr (fun _ => rfl) (ComesTo.init r hc p hp)
  · have hm := State.message_of_valid hcap hv ht hn
    exact pollsForEver_of_perform (i := .flush) hi hr (fun ds => execFlush_of_message (s := s.withDraws ds) hi hm)
      (ComesTo.flush text f hf p hp)
  · subst ho
    obtain ⟨m, hm⟩ := lbStore_ok s.lbBuf s.lbOff bytes hcap
    have htext := State.message_of_valid (s := s.stored m (s.lbOff + bytes.length)) hcap
      (State.validIs_stored hv hm) ht hn
    have hexec : ∀ ds, exec (.append s.lbOff bytes) (s.withDraws ds) = .next (State.go ds
        (flushCode text ++ [.answer (some (countByte bytes.length))]) (s.stored m (s.lbOff + bytes.length))) :=
      fun ds => (execAppend_of_message (s := s.withDraws ds) hi hcap hm htext).trans
        (perform_withDraws (s := s.stored m (s.lbOff + bytes.length)) hi _ ds)
    exact ⟨m, lbStore_read hm, fun p hp => ((ComesTo.flush text f hf p hp).append _).pollsForEver hexec hr rfl⟩

/-- Settles O22: four writes pass, or one of them is the call that fails. -/
theorem sendDataWritesFourFrames : Obligations.SendDataWritesFourFrames := by
  intro b vs rest s hi hv
  obtain ⟨v1, v2, v3, v4, rfl⟩ := List.length_eq_four.mp hv
  exact ⟨fun hd => perform_answer hi (Passes.dataByte b v1 v2 v3 v4) hd none,
    fun n e hn hd => perform_stoppedAt hi (Stops.dataByte b v1 v2 v3 v4) hn hd _⟩

/-- Settles O23: data and half commands are pieces of writes; a command writes once its poll has ended clear. -/
theorem commandsPollAndDataDoesNot : Obligations.CommandsPollAndDataDoesNot := by
  intro b s hi
  refine ⟨fun i t h hexec => ?_, fun t h => ?_⟩
  · rcases h with rfl | rfl | rfl
    · exact trace_of_perform_writes hi (vs := byteBytes b true) hexec
    · exact trace_of_perform_writes hi (vs := byteBytes b true) hexec
    · exact trace_of_perform_writes hi (vs := nibbleBytes (hiNibble b) false) hexec
  · obtain ⟨evs, ht, hfirst⟩ := State.go_sendCommand_firstFrame b s.draws s
    rw [exec, execSendCommand, perform_eq_go hi] at h
    cases h
    refine ⟨evs, ht, fun before e behind hevs he hb => ?_⟩
    obtain ⟨earlier, q, hbefore, hclear⟩ := hfirst before e behind hevs he hb
    exact ⟨earlier, q.r1, q.r2, hbefore, hclear⟩

/-- Settles O19: the two writes pass, or the first or the second one is the call that fails. -/
theorem halfCommandSendsTheHighNibble : Obligations.HalfCommandSendsTheHighNibble := by
  intro cmd v w e rest s hi
  have hstops := Stops.halfCommand cmd v w
  refine ⟨fun hd => ?_, fun hd => ?_, fun hd => ?_⟩
  · exact perform_answer hi (Passes.halfCommand cmd v w) hd none
  · exact perform_busError hi hstops (done := []) (n := 0) ⟨⟨_, rfl⟩, rfl, rfl⟩ Nat.two_pos hd _
  · exact perform_busError hi hstops (done := [.write ((cmd &&& 0xF0#8) ||| 0x0C#8)]) (n := 1) ⟨⟨_, rfl⟩, rfl, rfl⟩
      Nat.one_lt_two hd _
end

section
/-! Operations whose piece also writes state registers (R171, R173, R174), from an idle block: with no failing call, and with
the call that fails; and what INIT has written by then. -/

namespace Sys2Proof.Machine

open Sys2Proof

variable {s : State} {code : List Action} {D rest : List Draw} {evs : List Event} {n : Nat}

/-- No call of the piece fails, and its registers are written. -/
theorem PassesWith.perform_answer {w : Writes} (hp : PassesWith code D evs w) (hi : s.Idle) (hd : s.draws = D ++ rest)
    (v : Option Byte) : perform (code ++ [.answer v]) s = .next ((s.after evs rest (.ok v)).writes w) := by
  obtain ⟨u, hu, hidle⟩ := hp.2 rest [.answer v] s
  rw [perform_eq_go hi, hd, hu, State.go_answer, State.finish, hidle]
  rfl

/-- The piece's call number `n` fails: the registers are those it had written by then (R229). -/
theorem StopsWith.perform_stoppedAt {g : Nat → Writes} (hs : StopsWith code D evs g) (hi : s.Idle) (hn : n < D.length)
    {e : BusErrInfo} (hd : s.draws = D.take n ++ .err e :: rest) (k : List Action) :
    ∃ t, perform (code ++ k) s = .next t ∧ StoppedAt s t evs n e rest
      ∧ t = { t with phase := (s.writes (g n)).phase, cursor := (s.writes (g n)).cursor, lbBuf := s.lbBuf,
                     lbOff := (s.writes (g n)).lbOff } := by
  obtain ⟨done, call, hc, hgo⟩ := hs n e rest k s hn
  refine ⟨_, ?_, stoppedAt_failed (u := s.writes (g n)) rfl rfl rfl hc e rest, rfl⟩
  rw [perform_eq_go hi, hd, hgo]

/-! ## INIT's registers at a failed call (R172) -/

theorem State.writes_reached_phase (s : State) (r : InitRun) (n : Nat) :
    (s.writes (r.reached n)).phase =
      if n < 2 then .uninitialized
      else if n < 2 + r.functionSet.draws.length then .functionSetPending
      else if n < 2 + r.functionSet.draws.length + r.displayOn.draws.length then .twoLineModePending
      else if n < 2 + r.functionSet.draws.length + r.displayOn.draws.length + r.clear.draws.length then .displayOnPending
      else .cleared := by
  simp only [InitRun.reached, apply_ite s.writes, apply_ite State.phase]
  rfl

/-- `cursor` is written at the end of CLEAR, the fourth step. -/
theorem State.writes_reached_cursor (s : State) (r : InitRun) (n : Nat) :
    (s.writes (r.reached n)).cursor =
      if n < 2 + r.functionSet.draws.length + r.displayOn.draws.length + r.clear.draws.length then s.cursor
      else some 0 := by
  by_cases hclear : n < 2 + r.functionSet.draws.length + r.displayOn.draws.length + r.clear.draws.length
  · rw [if_pos hclear, InitRun.reached, if_pos hclear]
    split_ifs <;> rfl
  · rw [if_neg hclear, InitRun.reached, if_neg (by omega), if_neg (by omega), if_neg (by omega), if_neg hclear]
    rfl

theorem State.writes_reached_lbOff (s : State) (r : InitRun) (n : Nat) :
    (s.writes (r.reached n)).lbOff = s.lbOff := by
  unfold InitRun.reached
  split_ifs <;> rfl

/-! ## SET_CURSOR (R174) -/

theorem exec_setCursor_outOfRange (hi : s.Idle) {pos : Int} (h : pos < 0 ∨ 31 < pos) :
    exec (.setCursor pos) s = .next (s.raiseError .invalidArgument) := by
  have hrange : posInRange pos = false := decide_eq_false fun ⟨h0, h31⟩ => by
    have h31 : pos ≤ 31 := h31
    omega
  rw [exec, execSetCursor, hrange, if_neg Bool.false_ne_true, whenIdle_idle hi]

/-- The command byte, from the position as SET_CURSOR takes it (R92, R175). -/
theorem cursorCommand_toNat_eq_ofInt {pos : Int} (h0 : 0 ≤ pos) :
    cursorCommand pos.toNat = 0x80#8 ||| BitVec.ofInt 8 (if pos ≥ 16 then pos - 16 + 0x40 else pos) := by
  have haddr : (ddramAddr pos.toNat : Int) = if pos ≥ 16 then pos - 16 + 0x40 else pos := by
    split
    · next h => rw [ddramAddr_line2 (by omega)]; omega
    · next h => rw [ddramAddr_line1 (by omega)]; omega
  rw [← haddr, BitVec.ofInt_natCast]
  rfl

/-! ## The phase -/

/-- `t` is `s` with some phase. -/
def SameButPhase (s t : State) : Prop := ∃ p, t = { s with phase := p }

theorem unread_phase : Unread SameButPhase where
  reads := by
    rintro s t ⟨p, rfl⟩
    exact ⟨rfl, rfl, rfl, rfl, rfl, rfl, rfl, rfl⟩
  update := by
    rintro f s t hf ⟨p, rfl⟩
    cases hf <;> exact ⟨_, rfl⟩

/-- INIT's first statement writes the phase, so that it runs as from Uninitialized (R171). -/
theorem exec_init_eq_go (hi : s.Idle) :
    exec .init s = .next (State.go s.draws (initCode ++ [.answer none]) (s.setPhase .uninitialized)) :=
  perform_eq_go hi _

end Sys2Proof.Machine
end

section
/-! The statements of the family 42_display_sequencer.md. -/

open Sys2Proof Sys2Proof.Machine

/-- Settles O25: INIT's piece passes with its answers, and at its failed call it has written what `InitRun.reached` says. -/
theorem initRunsItsFiveSteps : Obligations.InitRunsItsFiveSteps := by
  intro r rest s hi hr
  refine ⟨fun hd => (PassesWith.init r hr).perform_answer hi hd none, fun n e hn hd => ?_⟩
  obtain ⟨t, hexec, hstop, ht⟩ := (StopsWith.init r hr).perform_stoppedAt hi hn hd [.answer none]
  exact ⟨t, hexec, hstop, (congrArg State.phase ht).trans (s.writes_reached_phase r n),
    (congrArg State.cursor ht).trans (s.writes_reached_cursor r n), (congrArg State.lbBuf ht :),
    (congrArg State.lbOff ht).trans (s.writes_reached_lbOff r n)⟩

/-- Settles O27: the command passes and `cursor` is written behind it, or a call of the command is the one that fails. -/
theorem clearZeroesTheCursor : Obligations.ClearZeroesTheCursor := by
  intro c rest s hi hc
  exact ⟨fun hd => (PassesWith.clear c hc).perform_answer hi hd none,
    fun n e hn hd => (StopsWith.clear c hc).perform_stoppedAt hi hn hd _⟩

/-- Settles O28: out of range it answers at once; in range it is, as CLEAR, a command and then the cursor write. -/
theorem setCursorAddressesTheCell : Obligations.SetCursorAddressesTheCell := by
  intro pos c rest s hi
  refine ⟨fun h => ?_, fun h0 h31 hc => ?_⟩
  · rw [exec_setCursor_outOfRange hi h, State.raiseError, State.finish_eq_after_noEvent]
  · rw [exec_setCursor_inRange h0 h31, ← cursorCommand_toNat_eq_ofInt h0]
    exact ⟨fun hd => (PassesWith.moveTo pos.toNat c hc).perform_answer hi hd none,
      fun n e hn hd => (StopsWith.moveTo pos.toNat c hc).perform_stoppedAt hi hn hd _⟩

/-- Settles O30: PRINT_CHAR is SEND_DATA of its byte (R176). -/
theorem printCharSendsTheByte : Obligations.PrintCharSendsTheByte := by
  intro b vs rest s
  have hexec : exec (.printChar b) s = exec (.sendData b) s := rfl
  rw [hexec]
  exact sendDataWritesFourFrames b vs rest s

/-- Settles O31: every update keeps two states equal but for the phase, no operation reads it, and INIT writes it first. -/
theorem noOperationReadsThePhase : Obligations.NoOperationReadsThePhase := by
  intro i p s hi
  have hother : SameButPhase s { s with phase := p } := ⟨p, rfl⟩
  refine ⟨fun hinit => ?_, (exec_init_eq_go (unread_phase.idle hother hi)).trans (exec_init_eq_go hi).symm⟩
  have h := unread_phase.exec hother hi i
  generalize exec i s = o at h ⊢
  cases o with
  | next t =>
    obtain ⟨t', hexec, q, rfl⟩ := h
    have hq : q = p := ((exec_answers (unread_phase.idle hother hi) hexec).agrees (mayWrite_phase hinit)).1 rfl
    rw [hexec, hq]
  | fault f => exact h
  | refused r => exact h
end

section
/-! The line buffer (R200 to R203): what the newline test finds, what APPEND does once its bytes are stored, and the registers
that a flush writes, on the block's own and up to its failed call. -/

namespace Sys2Proof.Machine

open Sys2Proof

variable {s : State} {code : List Action} {D rest : List Draw} {evs : List Event}

/-- LbRead of the whole valid part (R202). -/
theorem State.lbLoad_of_valid {valid : List Byte} (hcap : s.lbOff ≤ Config.BUF_CAP) (hv : s.validIs valid) :
    lbLoad s.lbBuf 0 s.lbOff = .ok valid := by
  obtain ⟨hlen, hread⟩ := hv
  rw [← hlen] at hcap ⊢
  exact lbLoad_ok s.lbBuf 0 valid (by rwa [Nat.zero_add]) fun j b hj => by rw [Nat.zero_add]; exact hread j b hj

/-- No message stands in a buffer whose valid part holds no NEWLINE (R202). -/
theorem State.message_of_noNewline {valid : List Byte} (hcap : s.lbOff ≤ Config.BUF_CAP) (hv : s.validIs valid)
    (hn : Config.NEWLINE ∉ valid) : s.message = .ok none := by
  simp only [State.message, State.lbLoad_of_valid hcap hv, newlineIndex_none hn, Option.map_none]

/-! ## APPEND (R200, R201) -/

theorem exec_append_wrongOffset (hi : s.Idle) {offset : Nat} (h : offset ≠ s.lbOff) (bytes : List Byte) :
    exec (.append offset bytes) s = .refused (.offsetMismatch offset s.lbOff) := by
  rw [exec, execAppend, whenIdle_idle hi, if_pos h]

/-- An APPEND that fits stores its bytes and goes on with the newline test. -/
theorem exec_append_fits (hi : s.Idle) {bytes : List Byte} {m : Memory}
    (hfit : s.lbOff + bytes.length ≤ Config.BUF_CAP) (hm : lbStore s.lbBuf s.lbOff bytes = .ok m) :
    exec (.append s.lbOff bytes) s = appendStored bytes (s.stored m (s.lbOff + bytes.length)) := by
  rw [exec, execAppend, whenIdle_idle hi, if_neg (not_not.mpr rfl), if_neg (Nat.not_lt.mpr hfit)]
  simp only [hm]
  rfl

/-- Without a NEWLINE in the valid part the count is answered at once. -/
theorem exec_append_noNewline (hi : s.Idle) {valid bytes : List Byte} (hfit : s.lbOff + bytes.length ≤ Config.BUF_CAP)
    (hv : s.validIs valid) (hn : Config.NEWLINE ∉ valid ++ bytes) :
    ∃ m, exec (.append s.lbOff bytes) s
        = .next ((s.stored m (s.lbOff + bytes.length)).finish (.ok (some (countByte bytes.length))))
      ∧ StoredFrom s.lbBuf m s.lbOff bytes := by
  obtain ⟨m, hm⟩ := lbStore_ok s.lbBuf s.lbOff bytes hfit
  have hmessage := State.message_of_noNewline (s := s.stored m _) hfit (State.validIs_stored hv hm) hn
  exact ⟨m, by rw [exec_append_fits hi hfit hm, appendStored, hmessage], lbStore_read hm⟩

/-- With a NEWLINE in the valid part the text before it is flushed (R202, R203). -/
theorem exec_append_newline (hi : s.Idle) {valid bytes text tail : List Byte}
    (hfit : s.lbOff + bytes.length ≤ Config.BUF_CAP) (hv : s.validIs valid)
    (ht : valid ++ bytes = text ++ Config.NEWLINE :: tail) (hn : Config.NEWLINE ∉ text) :
    ∃ m, exec (.append s.lbOff bytes) s
        = perform (flushCode text ++ [.answer (some (countByte bytes.length))]) (s.stored m (s.lbOff + bytes.length))
      ∧ StoredFrom s.lbBuf m s.lbOff bytes := by
  obtain ⟨m, hm⟩ := lbStore_ok s.lbBuf s.lbOff bytes hfit
  have hmessage := State.message_of_valid (s := s.stored m _) hfit (State.validIs_stored hv hm) ht hn
  exact ⟨m, by rw [exec, execAppend_of_message hi hfit hm hmessage], lbStore_read hm⟩

/-! ## FLUSH (R203, R206) -/

/-- FLUSH without a message is refused (log 17). -/
theorem exec_flush_noMessage (hi : s.Idle) (hm : s.message = .ok none) :
    exec .flush s = .refused .flushWithoutNewline := by
  simp only [exec, execFlush, whenIdle_idle hi, hm]

/-- No call of the piece fails, no response is presented, and the piece's registers are written. -/
theorem PassesWith.perform_ret {w : Writes} (hp : PassesWith code D evs w) (hi : s.Idle) (hd : s.draws = D ++ rest) :
    perform (code ++ [.ret]) s = .next ((s.afterItem evs rest).writes w) := by
  obtain ⟨u, hu, hidle⟩ := hp.2 rest [.ret] s
  rw [perform_eq_go hi, hd, hu, State.go_ret, hidle]
  rfl

/-- No flush writes the phase. -/
theorem State.writes_flushReached_phase (s : State) (f : FlushRun) (k n : Nat) :
    (s.writes (f.reached k n)).phase = s.phase := by
  unfold FlushRun.reached
  split_ifs <;> rfl

/-- `cursor` is written at the end of CLEAR, of SET_CURSOR(0) and of SET_CURSOR(16). -/
theorem State.writes_flushReached_cursor (s : State) (f : FlushRun) (k n : Nat) :
    (s.writes (f.reached k n)).cursor =
      if n < f.clear.draws.length then s.cursor
      else if 16 < k ∧ f.clear.draws.length + f.home.draws.length + 64 + f.wrap.draws.length ≤ n then some 16
      else some 0 := by
  simp only [FlushRun.reached, apply_ite s.writes, apply_ite State.cursor]
  rfl

/-- The buffer is emptied behind the last call only, so that a failed flush keeps its message (R206). -/
theorem State.writes_flushReached_lbOff (s : State) (f : FlushRun) (k n : Nat) :
    (s.writes (f.reached k n)).lbOff = s.lbOff := by
  unfold FlushRun.reached
  split_ifs <;> rfl

end Sys2Proof.Machine
end

section
/-! The statements of the family 43_line_buffer.md. -/

open Sys2Proof Sys2Proof.Machine

/-- Settles O34: the bytes are stored, the newline test finds none, and the count is answered without a call. -/
theorem appendWithoutNewlineStores : Obligations.AppendWithoutNewlineStores := by
  rintro _ bytes valid s hi rfl hfit hv hvalid hbytes
  obtain ⟨m, hexec, hstored⟩ := exec_append_noNewline hi hfit hv (List.not_mem_append hvalid hbytes)
  rw [State.finish_eq_after_noEvent] at hexec
  exact ⟨m, hexec, hstored⟩

/-- Settles O37: the flush's piece passes from the state that holds the stored bytes. -/
theorem appendFlushesTheMessage : Obligations.AppendFlushesTheMessage := by
  rintro _ bytes valid text tail f rest s hi rfl hfit hv ht hn hf hd
  obtain ⟨m, hexec, hstored⟩ := exec_append_newline hi hfit hv ht hn
  exact ⟨m, hexec.trans ((PassesWith.flush text f hf).perform_answer (s := s.stored m _) hi hd _), hstored⟩

/-- Settles O38: the flush's piece stops at its failed call, and has written by then what `FlushRun.reached` says. -/
theorem failedFlushKeepsTheMessage : Obligations.FailedFlushKeepsTheMessage := by
  rintro _ n bytes valid text tail f e rest s hi rfl hfit hv ht hn hf hlt hd
  obtain ⟨m, hexec, hstored⟩ := exec_append_newline hi hfit hv ht hn
  obtain ⟨t, hperform, hstop, hregs⟩ :=
    (StopsWith.flush text f hf).perform_stoppedAt (s := s.stored m _) hi hlt hd [.answer _]
  have hlbBuf : t.lbBuf = m := (congrArg State.lbBuf hregs :)
  exact ⟨t, hexec.trans hperform, hstop, (congrArg State.lbOff hregs).trans (State.writes_flushReached_lbOff ..),
    hlbBuf ▸ hstored, (congrArg State.phase hregs).trans (State.writes_flushReached_phase ..),
    (congrArg State.cursor hregs).trans (State.writes_flushReached_cursor ..)⟩

/-- Settles O39: the flush's piece passes where the newline test finds a message; where it finds none, FLUSH is refused. -/
theorem flushPrintsTheMessage : Obligations.FlushPrintsTheMessage := by
  intro valid text tail f rest s hi hcap hv
  refine ⟨fun ht hn hf hd => ?_, fun hn => exec_flush_noMessage hi (State.message_of_noNewline hcap hv hn)⟩
  have hflush : exec .flush s = perform (flushCode text ++ [.ret]) s :=
    execFlush_of_message hi (State.message_of_valid hcap hv ht hn)
  exact hflush.trans ((PassesWith.flush text f hf).perform_ret hi hd)

/-- Settles O36: the offset is checked before anything else. -/
theorem wrongOffsetIsRefused : Obligations.WrongOffsetIsRefused :=
  fun _ bytes _ hi h => exec_append_wrongOffset hi h bytes
end

section
/-! When an instruction runs (R238, R239 (a), R242): a block that is not idle refuses every one, and a step without an item
takes a response, goes on with the operation in flight, or changes nothing. -/

namespace Sys2Proof.Machine

open Sys2Proof

variable {s : State}

/-! ## A block that is not idle -/

theorem perform_notIdle (h : ¬ s.Idle) (code : List Action) : perform code s = .refused .requestInFlight :=
  whenIdle_notIdle h _

theorem answerNow_notIdle (h : ¬ s.Idle) (r : Response) : answerNow r s = .refused .requestInFlight :=
  whenIdle_notIdle h _

/-- Every instruction's meaning asks first whether the block is idle. -/
theorem exec_notIdle (h : ¬ s.Idle) (i : Instr) : exec i s = .refused .requestInFlight := by
  cases i with
  | setCursor pos =>
    rw [exec, execSetCursor]
    split
    · exact perform_notIdle h _
    · exact whenIdle_notIdle h _
  | pulse base =>
    rw [exec, execPulse]
    split
    · exact perform_notIdle h _
    · exact whenIdle_notIdle h _
  | encode | response => exact answerNow_notIdle h _
  | append => rw [exec, execAppend, whenIdle_notIdle h]
  | flush => rw [exec, execFlush, whenIdle_notIdle h]
  | reqInvalid => rw [exec, execReqInvalid, whenIdle_notIdle h]
  | readByte => rw [exec, execReadByte, whenIdle_notIdle h]
  | status => rw [exec, execStatus, whenIdle_notIdle h]
  | _ => exact perform_notIdle h _

/-! ## A step without an item -/

theorem step_response_ready (hr : s.resetLine = false) (hp : s.position = []) (ha : s.response ≠ none)
    (hready : s.rspReady = true) : step s = .next s.takeResponse := by
  rw [step_answered hr hp ha, State.handshake, if_pos hready]

theorem step_response_unready (hr : s.resetLine = false) (hp : s.position = []) (ha : s.response ≠ none)
    (hready : s.rspReady = false) : step s = .next s := by
  rw [step_answered hr hp ha, State.handshake, hready, if_neg Bool.false_ne_true]

/-- An idle block with an empty port stays as it is (R242). -/
theorem step_emptyPort (hr : s.resetLine = false) (hi : s.Idle) (hl : s.lane = .req) (hq : s.requests = []) :
    step s = .next s := by
  rw [step_idle hr hi, State.fetch, hl, hq]

/-- An operation that waits without an answer goes on with one free answer (log 2). -/
theorem step_freeDraw (hr : s.resetLine = false) (ha : s.awaiting = true) (hd : s.draws = []) :
    step s = .next (State.run [Config.freeDraw s.drawCount] { s with drawCount := s.drawCount + 1 }) := by
  rw [step_inFlight hr (State.awaiting_position ha)]
  rcases resume_of_awaiting ha with ⟨hn, -⟩ | ⟨-, h⟩
  · exact absurd hd hn
  · rw [h]

end Sys2Proof.Machine
end

section
/-! Errors in every environment (R225, R227, R228): an operation makes no failed call before its last event, answers BusError
when that one failed, and the other two errors are answered at once. -/

namespace Sys2Proof.Machine

open Sys2Proof

/-! ## How an operation stands -/

/-- From `s0` to `s` the trace grew by events of calls that did not fail, and sleeps. -/
def State.CleanSince (s0 s : State) : Prop := ∃ evs, s.trace = s0.trace ++ evs ∧ ∀ e ∈ evs, e.failed = false

theorem State.CleanSince.of_trace {s0 s : State} (h : s.trace = s0.trace) : s0.CleanSince s :=
  ⟨[], by simp [h], by simp⟩

theorem State.CleanSince.emit {s0 s : State} (h : s0.CleanSince s) {e : Event} (he : e.failed = false) :
    s0.CleanSince (s.emit e) := by
  obtain ⟨evs, ht, hevs⟩ := h
  refine ⟨evs ++ [e], by rw [State.emit_trace, ht, List.append_assoc], fun x hx => ?_⟩
  rcases List.mem_append.mp hx with hx | hx
  · exact hevs x hx
  · exact List.mem_singleton.mp hx ▸ he

/-- How an operation that began in `s0` stands in `s`, by the code still to come. -/
inductive Stage (s0 : State) : List Action → State → Prop
  /-- No call has failed and no response stands. -/
  | underway {code : List Action} {s : State} (hclean : s0.CleanSince s) (hr : s.response = none) : Stage s0 code s
  /-- It has ended without a failed call. -/
  | answered {s : State} {v : Option Byte} (hclean : s0.CleanSince s) (hr : s.response = some (.ok v)) : Stage s0 [] s
  /-- Its last call has failed, which ended it. -/
  | failed {u s : State} {e : Event} {x : BusErrInfo} (hclean : s0.CleanSince u) (ht : s.trace = u.trace ++ [e])
      (he : e.failed = true) (hr : s.response = some (.error (.busError x))) : Stage s0 [] s

variable {s0 s t : State} {a : Action} {k code : List Action}

theorem Stage.clean (h : Stage s0 (a :: k) s) : s0.CleanSince s := by
  cases h with
  | underway hclean _ => exact hclean

theorem Stage.noResponse_of_ne_nil (h : Stage s0 code s) (hc : code ≠ []) : s.response = none := by
  cases h with
  | underway _ hr => exact hr
  | answered | failed => exact absurd rfl hc

theorem Stage.noResponse (h : Stage s0 (a :: k) s) : s.response = none :=
  h.noResponse_of_ne_nil (List.cons_ne_nil a k)

theorem Stage.isBusError (h : Stage s0 code s) {e : DriverError} (hr : s.response = some (.error e)) :
    ∃ x, e = .busError x := by
  cases h with
  | underway _ hnone => rw [hnone] at hr; cases hr
  | answered _ hok => rw [hok] at hr; cases hr
  | @failed _ _ _ x _ _ _ herr => rw [herr] at hr; cases hr; exact ⟨x, rfl⟩

theorem Stage.congr (h : Stage s0 code s) (ht : t.trace = s.trace) (hr : t.response = s.response) :
    Stage s0 code t := by
  cases h with
  | underway hclean hnone => exact .underway (by rwa [State.CleanSince, ht]) (hr.trans hnone)
  | answered hclean hok => exact .answered (by rwa [State.CleanSince, ht]) (hr.trans hok)
  | failed hclean htrace he herr => exact .failed hclean (ht.trans htrace) he (hr.trans herr)

theorem stage_kept (s0 : State) : Kept (Stage s0) where
  goTo _ h := h.congr rfl rfl
  withDraws _ h := h.congr rfl rfl
  status h := .underway h.clean h.noResponse
  busy h _ := .underway (h.clean.emit rfl) h.noResponse
  clear h _ := .underway h.clean h.noResponse
  setPhase h := .underway h.clean h.noResponse
  setCursor h := .underway h.clean h.noResponse
  emptyBuffer h := .underway h.clean h.noResponse
  answer h := .answered h.clean rfl
  answerBusy h _ := .answered h.clean rfl
  ret h := .underway h.clean h.noResponse
  write {_ _ v} h := .underway (h.clean.emit (e := .write v) rfl) h.noResponse
  readHi h := .underway (h.clean.emit rfl) h.noResponse
  readLo h := .underway (h.clean.emit rfl) h.noResponse
  writeErr h := .failed h.clean rfl rfl rfl
  readHiErr h := .failed h.clean rfl rfl rfl
  readLoErr h := .failed h.clean rfl rfl rfl

/-! ## The first failure (R227, R228) -/

/-- BusError is answered. -/
def State.BusFailed (t : State) : Prop := ∃ x, t.response = some (.error (.busError x))

/-- From `s` to `t` no event stands after a failed call, and BusError is answered exactly when a call failed, by an
operation that is then no longer in flight. -/
def State.StopsAtFailure (s t : State) : Prop :=
  ∃ evs, t.trace = s.trace ++ evs ∧ (∀ e ∈ evs.dropLast, e.failed = false)
    ∧ (t.BusFailed ↔ ∃ e, evs.getLast? = some e ∧ e.failed = true) ∧ (t.BusFailed → t.position = [])

theorem State.CleanSince.stopsAtFailure (h : s.CleanSince t) (hr : ¬ t.BusFailed) : s.StopsAtFailure t := by
  obtain ⟨evs, ht, hevs⟩ := h
  have hlast : ¬ ∃ e, evs.getLast? = some e ∧ e.failed = true := fun ⟨e, he, hfailed⟩ => by
    rw [hevs e (List.mem_of_getLast? he)] at hfailed
    cases hfailed
  exact ⟨evs, ht, fun e he => hevs e (List.mem_of_mem_dropLast he), iff_of_false hr hlast, fun h => absurd h hr⟩

theorem Stage.stopsAtFailure (h : Stage s code t) (hp : t.position = code) : s.StopsAtFailure t := by
  cases h with
  | underway hclean hr => exact hclean.stopsAtFailure (by simp [State.BusFailed, hr])
  | answered hclean hr => exact hclean.stopsAtFailure (by simp [State.BusFailed, hr])
  | @failed _ _ e x hclean ht he hr =>
    obtain ⟨evs, hu, hevs⟩ := hclean
    refine ⟨evs ++ [e], by rw [ht, hu, List.append_assoc], ?_, ?_, fun _ => hp⟩
    · rwa [List.dropLast_concat]
    · exact iff_of_true ⟨x, hr⟩ ⟨e, List.getLast?_concat, he⟩

/-! ## What an instruction answers -/

/-- The errors that are answered without a transport call, each with its instruction (R222, R223). -/
inductive RangeError : Instr → DriverError → Prop
  | invalidArgument {pos : Int} (h : pos < 0 ∨ 31 < pos) : RangeError (.setCursor pos) .invalidArgument
  | messageTooLong {offset : Nat} {bytes : List Byte} (h : 33 < offset + bytes.length) :
      RangeError (.append offset bytes) .messageTooLong

/-- An APPEND past the buffer's capacity stores nothing and empties the buffer (R200). -/
theorem exec_append_overflow (hi : s.Idle) {bytes : List Byte} (h : Config.BUF_CAP < s.lbOff + bytes.length) :
    exec (.append s.lbOff bytes) s = .next ((s.setLbOff 0).raiseError .messageTooLong) := by
  rw [exec, execAppend, whenIdle_idle hi, if_neg (not_not.mpr rfl), if_pos h]

theorem outside_of_not_posInRange {pos : Int} (h : posInRange pos = false) : pos < 0 ∨ 31 < pos := by
  have hout : ¬ (0 ≤ pos ∧ pos ≤ 31) := of_decide_eq_false h
  omega

/-- An instruction runs against its answers, or is an error at once. -/
theorem Answers.stage {i : Instr} (hi : s.Idle) (h : Answers i s t) (hresponse : ∀ r, i ≠ .response r) :
    Stage s t.position t
    ∨ ∃ e, RangeError i e ∧ t.position = [] ∧ t.trace = s.trace ∧ t.response = some (.error e) := by
  have hclean : ∀ {u : State}, u.trace = s.trace → s.CleanSince u := .of_trace
  cases h with
  | runs => exact .inl ((stage_kept s).go _ (.underway (hclean rfl) hi.2))
  | flushes => exact .inl ((stage_kept s).go _ (.underway (hclean rfl) hi.2))
  | stores | encodes => exact .inl (.answered (hclean rfl) rfl)
  | overflows hl => exact .inr ⟨_, .messageTooLong hl, rfl, rfl, rfl⟩
  | outOfRange hp => exact .inr ⟨_, .invalidArgument (outside_of_not_posInRange hp), rfl, rfl, rfl⟩
  | presents r => exact absurd rfl (hresponse r)
  | reads =>
    left
    rcases s.takeRead_cases _ with e | e <;> rw [e] <;> exact .underway ((hclean rfl).emit rfl) hi.2
  | takes => exact .inl (.underway (hclean rfl) hi.2)

theorem Answers.rangeError {i : Instr} (hi : s.Idle) (h : Answers i s t) (hresponse : ∀ r, i ≠ .response r)
    {e : DriverError} (hr : t.response = some (.error e)) (hbus : ∀ x, e ≠ .busError x) : RangeError i e := by
  obtain hstage | ⟨e', he, -, -, hr'⟩ := h.stage hi hresponse
  · obtain ⟨x, hx⟩ := hstage.isBusError hr
    exact absurd hx (hbus x)
  · rw [hr'] at hr
    cases hr
    exact he

/-! ## Requests answer (R238) -/

/-- The code presents a response before it returns. -/
def comesToAnswer : List Action → Bool
  | .answer _ :: _ | .answerBusy :: _ => true
  | [] | .ret :: _ => false
  | _ :: k => comesToAnswer k

theorem comesToAnswer_printLoop (text : List Byte) (i : Nat) (h : comesToAnswer k = true) :
    comesToAnswer (printLoopCode i text ++ k) = true := by
  induction text generalizing i with
  | nil => exact h
  | cons b text ih =>
    have hrest := ih (i + 1)
    rw [printLoopCode, List.append_assoc]
    split <;> exact hrest

theorem comesToAnswer_flush (text : List Byte) (v : Option Byte) :
    comesToAnswer (flushCode text ++ [.answer v]) = true := by
  rw [flushCode, List.append_assoc, List.append_assoc]
  exact comesToAnswer_printLoop text 0 rfl

theorem Program.comesToAnswer {i : Instr} (hc : Program i code) (hreq : i.format = .req) :
    comesToAnswer code = true := by
  cases hc with
  | append _ _ text => exact comesToAnswer_flush text _
  | init | clear | setCursor | printChar | sendCommand | sendData | sendHalfCommand | readBusy | pulse => rfl
  | _ => cases hreq

/-- Code that comes to an answer does not end without a response. -/
theorem comesToAnswer_kept : Kept (fun c s => comesToAnswer c = true ∨ s.response.isSome = true) where
  goTo _ h := h
  withDraws _ h := h
  status h := h
  busy h _ := h
  clear h _ := h
  setPhase h := h
  setCursor h := h
  emptyBuffer h := h
  answer _ := .inr rfl
  answerBusy _ _ := .inr rfl
  ret h := h
  write h := h
  readHi h := h
  readLo h := h
  writeErr _ := .inr rfl
  readHiErr _ := .inr rfl
  readLoErr _ := .inr rfl

theorem go_responds (ds : List Draw) (h : comesToAnswer code = true) (hp : (State.go ds code s).position = []) :
    (State.go ds code s).response.isSome = true := by
  have hgo := comesToAnswer_kept.go (s := s) ds (.inl h)
  rw [hp] at hgo
  exact hgo.resolve_left Bool.false_ne_true

/-- A request that has ended has presented its response. -/
theorem Answers.responds {i : Instr} (h : Answers i s t) (hreq : i.format = .req) (hp : t.position = []) :
    t.response.isSome = true := by
  cases h with
  | runs hc _ => exact go_responds _ (hc.comesToAnswer hreq) hp
  | flushes => exact go_responds _ (comesToAnswer_flush _ _) hp
  | stores | overflows | outOfRange | encodes => rfl
  | presents | reads | takes => cases hreq

end Sys2Proof.Machine
end

section
/-! The statements of the family 60_exceptions.md. -/

open Sys2Proof Sys2Proof.Machine

/-- Settles O41: an operation that has answered BusError has stopped at its last event, the only one of a failed call. -/
theorem firstFailureEndsTheOperation : Obligations.FirstFailureEndsTheOperation := by
  intro i s t hi hresponse h
  obtain hstage | ⟨e, he, -, ht, hr⟩ := (exec_answers hi h).stage hi hresponse
  · exact hstage.stopsAtFailure rfl
  · exact (State.CleanSince.of_trace ht).stopsAtFailure fun ⟨x, hx⟩ => by
      rw [hr] at hx
      cases hx
      cases he

/-- Settles O42: a run answers no error but BusError, and each of the others has its instruction. -/
theorem errorsHaveTheirOperations : Obligations.ErrorsHaveTheirOperations := by
  intro i s t hi hresponse h
  have hanswers := exec_answers hi h
  refine ⟨fun hr => ?_, fun hr => ?_, ?_⟩
  · cases hanswers.rangeError hi hresponse hr nofun with
    | invalidArgument hout => exact ⟨_, rfl, hout⟩
  · cases hanswers.rangeError hi hresponse hr nofun with
    | messageTooLong hlong => exact ⟨_, _, rfl, hlong⟩
  · rintro n rs en bl rfl e
    rw [exec_encode hi] at h
    cases h
    nofun

/-- Settles O45: the code of a request comes to an answer, and a response that stands keeps the block from being idle. -/
theorem requestsAreAnsweredAndTaken : Obligations.RequestsAreAnsweredAndTaken := by
  intro i s t hi hreq hreset h
  have hanswers := exec_answers hi h
  obtain ⟨m, hout, -⟩ := hanswers.sameOutside
  have hreset : t.resetLine = false := hout.resetLine.trans hreset
  refine ⟨fun hp => ?_, fun hp => ?_⟩
  · obtain hstage | ⟨e, -, hended, -⟩ := hanswers.stage hi (by rintro r rfl; cases hreq)
    · exact hstage.noResponse_of_ne_nil hp
    · exact absurd hended hp
  · have hsome := hanswers.responds hreq hp
    have hne : t.response ≠ none := Option.isSome_iff_ne_none.mp hsome
    exact ⟨hsome, exec_notIdle fun hidle => hne hidle.2,
      fun hready => ⟨step_response_ready hreset hp hne (hout.rspReady.trans hready), hp, rfl⟩,
      fun hready => step_response_unready hreset hp hne (hout.rspReady.trans hready)⟩

/-- Settles O35: the capacity check stands before the store. -/
theorem overflowEmptiesTheBuffer : Obligations.OverflowEmptiesTheBuffer := by
  rintro _ bytes s hi rfl h
  rw [exec_append_overflow hi h, State.raiseError, State.finish_eq_after_noEvent]
  rfl

/-- Settles O44: every instruction asks first whether the block is idle. -/
theorem inFlightRequestsAreRefused : Obligations.InFlightRequestsAreRefused := fun i _ h =>
  exec_notIdle (fun hidle => h.elim (absurd hidle.1) (absurd hidle.2)) i

/-- Settles O52: by the cases of a step. -/
theorem stepRunsTheDecodedItem : Obligations.StepRunsTheDecodedItem := fun s hr =>
  ⟨fun hi => ⟨fun _ _ hne hd => step_decoded hr hi hne hd, fun _ hne hd => step_undecodable hr hi hne hd,
      step_emptyPort hr hi⟩,
    fun hp ha => ⟨step_response_ready hr hp ha, step_response_unready hr hp ha⟩,
    fun ha => ⟨step_awaiting (s := s) hr ha, step_freeDraw hr ha⟩⟩
end

section
/-! Operations without a poll (R283): such a run makes at most the calls that stand in its code, so that it ends once each of
them has an answer. Behind it, what INIT leaves on the lines (R263). -/

namespace Sys2Proof.Machine

open Sys2Proof

variable {s : State} {code : List Action}

/-- The code has no poll, and the calls still to come in it are, with those already made, at most `n`. -/
def CallsWithin (n : Nat) (code : List Action) (s : State) : Prop :=
  Action.testBusy ∉ code ∧ code.countP Action.isCall + s.trace.countP Event.isCall ≤ n

/-- Behind the statement at the head the bound still holds: that statement makes a call only if it is one. -/
theorem CallsWithin.tail {n : Nat} {a : Action} {k : List Action} {t : State} (h : CallsWithin n (a :: k) s)
    (ht : t.trace.countP Event.isCall ≤ s.trace.countP Event.isCall + [a].countP Action.isCall) :
    CallsWithin n k t := by
  obtain ⟨hpoll, hcalls⟩ := h
  refine ⟨List.not_mem_of_not_mem_cons hpoll, ?_⟩
  rw [← List.singleton_append, List.countP_append] at hcalls
  omega

/-- An operation that ends has no call to come. -/
theorem CallsWithin.ended {n : Nat} {k : List Action} (h : CallsWithin n k s) : CallsWithin n [] s :=
  ⟨List.not_mem_nil, (Nat.add_le_add_right (Nat.zero_le _) _).trans h.2⟩

theorem CallsWithin.noPoll {n : Nat} {k : List Action} (h : CallsWithin n (.testBusy :: k) s) : False :=
  h.1 List.mem_cons_self

/-- A call makes one call event. -/
theorem countP_isCall_concat (evs : List Event) {e : Event} (he : e.isCall = true) :
    (evs ++ [e]).countP Event.isCall ≤ evs.countP Event.isCall + 1 := by
  rw [List.countP_append, List.countP_singleton, if_pos he]

theorem callsWithin_kept (n : Nat) : Kept (CallsWithin n) where
  goTo _ h := h
  withDraws _ h := h
  status h := h.tail le_rfl
  busy h _ := h.noPoll.elim
  clear h _ := h.noPoll.elim
  setPhase h := h.tail le_rfl
  setCursor h := h.tail le_rfl
  emptyBuffer h := h.tail le_rfl
  answer h := h.ended
  answerBusy h _ := h.ended
  ret h := h.ended
  write h := h.tail (countP_isCall_concat _ rfl)
  readHi h := h.tail (countP_isCall_concat _ rfl)
  readLo h := h.tail (countP_isCall_concat _ rfl)
  writeErr h := (h.tail (countP_isCall_concat _ rfl)).ended
  readHiErr h := (h.tail (countP_isCall_concat _ rfl)).ended
  readLoErr h := (h.tail (countP_isCall_concat _ rfl)).ended

theorem State.awaiting_countP (h : s.awaiting = true) : 0 < s.position.countP Action.isCall := by
  unfold State.awaiting at h
  split at h
  · cases h
  · next ha => exact List.countP_pos_iff.mpr ⟨_, ha ▸ List.mem_cons_self, h⟩

/-- Code without a poll ends once each of its calls has an answer, and uses no more answers than it has calls. -/
theorem State.go_ends (ds : List Draw) (s : State) (hpoll : Action.testBusy ∉ code) (hflags : OwnFlags code)
    (hle : code.countP Action.isCall ≤ ds.length) :
    (State.go ds code s).position = []
      ∧ ds.length ≤ (State.go ds code s).draws.length + code.countP Action.isCall := by
  obtain ⟨evs, used, htrace, hdraws, hanswered⟩ := State.go_trace ds code s
  have hused : evs.countP Event.isCall = used.length := List.countP_eq_length_filter.trans hanswered.length_eq
  have hlength := congrArg List.length hdraws
  obtain ⟨-, hcalls⟩ := (callsWithin_kept _).go ds (s := s) ⟨hpoll, le_rfl⟩
  rw [htrace, List.countP_append, hused] at hcalls
  rw [List.length_append] at hlength
  obtain hended | hwaits := go_waits ds (hflags.stateReady s)
  · exact ⟨hended, by omega⟩
  · have hnone : (State.go ds code s).draws.length = 0 := congrArg List.length (State.run_draws_of_waiting hwaits)
    have hmore := State.awaiting_countP hwaits
    exfalso
    omega

/-- Code of writes only has no poll. -/
theorem testBusy_notMem_writes (vs : List Byte) (v : Option Byte) :
    Action.testBusy ∉ vs.map .write ++ [.answer v] := by
  simp

/-- A request whose code has no poll ends, and answers, within as many calls as stand in its code. -/
theorem Program.endsWithin {i : Instr} (hc : Program i code) (hreq : i.format = .req) (hpoll : Action.testBusy ∉ code)
    (hi : s.Idle) {n : Nat} (hn : code.countP Action.isCall = n) (hle : n ≤ s.draws.length) :
    ∃ t, perform code s = .next t ∧ t.position = [] ∧ t.response.isSome = true
      ∧ s.draws.length ≤ t.draws.length + n := by
  subst hn
  obtain ⟨hended, hused⟩ := State.go_ends s.draws s hpoll hc.ownFlags hle
  exact ⟨_, perform_eq_go hi code, hended, go_responds _ (hc.comesToAnswer hreq) hended, hused⟩

/-! ## The lines after a boot (R263) -/

/-- A command leaves the lines at the enable-low frame of its low nibble (R91). -/
@[simp] theorem portFrom_command (p : Option Byte) (c : CommandRun) (cmd : Byte) :
    portFrom p (c.events cmd) = some (((cmd &&& 0x0F#8) <<< 4) ||| 0x08#8) := by
  simp [CommandRun.events]

/-- INIT's last command is SET_CURSOR(0), whose low nibble is 0. -/
theorem portFrom_init (p : Option Byte) (r : InitRun) : portFrom p r.events = some 0x08#8 := by
  simp [InitRun.events]

end Sys2Proof.Machine
end

section
/-! The statements of the family 70_reset_and_hazards.md. -/

open Sys2Proof Sys2Proof.Machine

/-- Settles O26: INIT from reset, and what its events hold: one call per answer and one sleep per busy answer. -/
theorem bootLeavesReady : Obligations.BootLeavesReady := by
  intro r rest hr
  have hinit := (initRunsItsFiveSteps r rest { State.reset with draws := r.draws ++ rest } ⟨rfl, rfl⟩ hr).1 rfl
  exact ⟨_, hinit, rfl, rfl, rfl, portFrom_init none r, rfl, rfl, (PassesWith.init r hr).1.trans r.draws_length,
    Sleeps.init r⟩

/-- Settles O40: the appended bytes stand behind the NEWLINE that is already there, so the same text is flushed. -/
theorem failedFlushIsRepeated : Obligations.FailedFlushIsRepeated := by
  intro bytes valid text tail f rest s hi hfit hv ht hn hf hd
  have hbehind : valid ++ bytes = text ++ 0x0A#8 :: (tail ++ bytes) := by
    rw [ht, List.append_assoc, List.cons_append]
  obtain ⟨m, hexec, -⟩ :=
    appendFlushesTheMessage s.lbOff bytes valid text (tail ++ bytes) f rest s hi rfl hfit hv hbehind hn hf hd
  exact ⟨_, hexec, rfl, rfl, rfl⟩

/-- Settles O48: none of the five operations polls, and each bound is the number of calls in its code. -/
theorem boundedOperationsEnd : Obligations.BoundedOperationsEnd := by
  intro i bound s hi h hle
  rcases h with ⟨⟨b, hb, rfl⟩, rfl⟩ | ⟨rfl, rfl⟩ | ⟨⟨b, rfl⟩, rfl⟩ | ⟨⟨b, rfl⟩, rfl⟩ | ⟨⟨b, rfl⟩, rfl⟩
  · rw [exec_pulse_enableSet hb]
    exact (Program.pulse b hb).endsWithin rfl (testBusy_notMem_writes [b, enableLow b] none) hi rfl hle
  · exact Program.readBusy.endsWithin rfl (by decide) hi rfl hle
  · have hpoll := testBusy_notMem_writes (nibbleBytes (hiNibble b) false) none
    exact (Program.sendHalfCommand b).endsWithin rfl hpoll hi rfl hle
  · exact (Program.sendData b).endsWithin rfl (testBusy_notMem_writes (byteBytes b true) none) hi rfl hle
  · exact (Program.printChar b).endsWithin rfl (testBusy_notMem_writes (byteBytes b true) none) hi rfl hle

/-- Settles O51: reset goes before everything else that a step does. -/
theorem resetAbandonsTheOperation : Obligations.ResetAbandonsTheOperation := fun _ hr => step_reset hr
end
